-- ==== Sys2Proof/Word.lean ====
section
/-! DEFINITION. The widths of the machine (`00_scope.md` R8, R11, R12): bytes, 16-bit words, 12-bit
addresses of an instruction, and the indexes that name a register, a key or a row count. -/

namespace Sys2Proof

/-- A byte: the contents of a general register, a timer or a memory cell (R20, R36, R43). -/
abbrev Byte := BitVec 8

/-- A 16-bit word: `pc`, `I`, a stack entry, a fetched instruction (R24, R25, R34, R90). -/
abbrev Word := BitVec 16

/-- The 12-bit address field `nnn` of an instruction (R91). -/
abbrev Addr12 := BitVec 12

/-- The index of a general register, 0 to 15 (R20, R93). -/
abbrev Reg := Fin 16

/-- The index of a key latch, 0 to 15 (R42). -/
abbrev KeyIndex := Fin 16

/-- The row count `n` of DXYN, 0 to 15 (R93). -/
abbrev RowCount := Fin 16

/-- The number of bytes of memory, `MEM_SIZE` (R8). -/
@[simp] abbrev memSize : Nat := 4096

/-- The first address after the font: 0x000-0x04F hold the font (R8, R70). -/
@[simp] abbrev fontEnd : Nat := 0x050

/-- The program origin (R8, R25). -/
@[simp] abbrev programOrigin : Nat := 0x200

/-- The maximum program size, `MAX_ROM` (R8, R80). -/
@[simp] abbrev maxRom : Nat := 3584

/-- The index of the flag register VF (R22). -/
abbrev vf : Reg := 15

end Sys2Proof
end

