-- ==== Sys2Proof/Machine/Flags.lean ====
section
/-! DEFINITION. Every flag computation of `10_state.md` R29 but DXYN's collision (`drawSprite`, Ops): each is a
pair of the result and the flag, from the exact unsigned result (`42_alu.md` R182). -/

namespace Sys2Proof.Machine

open Sys2Proof

/-- 8XY4: the sum modulo 256 and the carry out of bit 7 (R176). -/
def addCarry (a b : Byte) : Byte × Bool := (a + b, decide (a.toNat + b.toNat > 0xFF))

/-- 8XY5 and, with its operands exchanged, 8XY7: the difference modulo 256 and NOT borrow; equal operands
need no borrow (R177, R179; log entry 28). -/
def subNoBorrow (a b : Byte) : Byte × Bool := (a - b, decide (a.toNat ≥ b.toNat))

/-- 8XY6: a logical shift right by one, and the bit shifted out (R178). -/
def shiftRightOut (v : Byte) : Byte × Bool := (v >>> 1, v.getLsbD 0)

/-- 8XYE: a shift left by one, and the bit shifted out (R180). -/
def shiftLeftOut (v : Byte) : Byte × Bool := (v <<< 1, v.getLsbD 7)

/-- FX1E: the sum modulo 2^16, and whether the full sum exceeds 0xFFF (R201; D9, log entry 11). -/
def indexAdd (i : Word) (v : Byte) : Word × Bool := (i + v.setWidth 16, decide (i.toNat + v.toNat > 0xFFF))

end Sys2Proof.Machine
end

