-- ==== Sys2Proof/Config.lean ====
section
/-! DEFINITION. The implementation parameters of `00_scope.md` R9 as one record, and the free values that stand
for what the spec leaves to a draw. They are configuration, not state (`10_state.md` R45). The
values this hardware takes are `Config.hardware`, in `Sys2Proof/Machine/Defaults.lean`. -/

namespace Sys2Proof

/-- `UNKNOWN_OPCODE_POLICY`: what a step does with an unrecognised word (R265, R266; D1). -/
inductive UnknownOpcodePolicy
  | halt
  | skip
  deriving DecidableEq, Repr

/-- `SHIFT_SRC`: the register 8XY6 and 8XYE shift (R178, R180; D4). -/
inductive ShiftSrc
  | vx
  | vy
  deriving DecidableEq, Repr

/-- `FX0A_SELECT`: which pressed key FX0A takes when several are pressed (R234; D6). -/
inductive KeySelect
  | lowest
  | anyPressed
  deriving DecidableEq, Repr

/-- `RESET_POLICY`: whether state the source gives no reset value is zero or unspecified (R46; D10). -/
inductive ResetPolicy
  | zero
  | unspecified
  deriving DecidableEq, Repr

/-- The named parameters of R9, and how a draw of `FX0A_SELECT = AnyPressed` falls. -/
structure Config where
  unknownOpcode   : UnknownOpcodePolicy
  fontProtect     : Bool
  shiftSrc        : ShiftSrc
  fx0aSelect      : KeySelect
  fx0aClearsLatch : Bool
  resetPolicy     : ResetPolicy
  /-- `FONT`: the 80 bytes at 0x000-0x04F after reset (R44; D18). -/
  font            : List Byte
  /-- `RAND`: the byte the random source answers at its `n`-th draw, one draw per CXNN (R181, R281; D17). -/
  rand            : Nat → Byte
  /-- Which of the pressed keys FX0A takes at its `n`-th draw under `FX0A_SELECT = AnyPressed`, as a number
  reduced modulo how many are pressed (R234; D6). -/
  keyPick         : Nat → Nat

/-- FREE VALUE: this hardware's `RAND` (R181, R281; D17). The spec fixes no generator and no distribution, so
nothing constrains it. Log entry 18. -/
opaque Config.randByte : Nat → Byte

/-- FREE VALUE: this hardware's `keyPick` (R234; D6). It takes `FX0A_SELECT = Lowest`, so it never draws one.
Log entry 8. -/
opaque Config.keyDraw : Nat → Nat

end Sys2Proof
end

