-- ==== Sys2Proof/Machine/Defaults.lean ====
section
/-! DEFINITION. This hardware's values of the parameters of `00_scope.md` R9: the defaults, with the font of
`10_state.md` R44. -/

namespace Sys2Proof

/-- Glyphs 0 to 7 of the standard font, five bytes each (R44; D18; PRESUMED, log entry 19). -/
def fontGlyphs0To7 : List Byte :=
  [0xF0, 0x90, 0x90, 0x90, 0xF0] ++ [0x20, 0x60, 0x20, 0x20, 0x70] ++
  [0xF0, 0x10, 0xF0, 0x80, 0xF0] ++ [0xF0, 0x10, 0xF0, 0x10, 0xF0] ++
  [0x90, 0x90, 0xF0, 0x10, 0x10] ++ [0xF0, 0x80, 0xF0, 0x10, 0xF0] ++
  [0xF0, 0x80, 0xF0, 0x90, 0xF0] ++ [0xF0, 0x10, 0x20, 0x40, 0x40]

/-- Glyphs 8 to F of the standard font (R44; D18; PRESUMED, log entry 19). -/
def fontGlyphs8ToF : List Byte :=
  [0xF0, 0x90, 0xF0, 0x90, 0xF0] ++ [0xF0, 0x90, 0xF0, 0x10, 0xF0] ++
  [0xF0, 0x90, 0xF0, 0x90, 0x90] ++ [0xE0, 0x90, 0xE0, 0x90, 0xE0] ++
  [0xF0, 0x80, 0x80, 0x80, 0xF0] ++ [0xE0, 0x90, 0x90, 0x90, 0xE0] ++
  [0xF0, 0x80, 0xF0, 0x80, 0xF0] ++ [0xF0, 0x80, 0xF0, 0x80, 0x80]

/-- The default of `FONT`: glyph `d` is bytes `5d` to `5d + 4` (R44). -/
def standardFont : List Byte := fontGlyphs0To7 ++ fontGlyphs8ToF

/-- The parameters of this hardware: every default of R9, and the free values. -/
def Config.hardware : Config where
  unknownOpcode   := .halt
  fontProtect     := true
  shiftSrc        := .vx
  fx0aSelect      := .lowest
  fx0aClearsLatch := false
  resetPolicy     := .zero
  font            := standardFont
  rand            := Config.randByte
  keyPick         := Config.keyDraw

end Sys2Proof
end

