-- ==== Sys2Proof/Machine/State.lean ====
section
/-! DEFINITION. The state of the core (`10_state.md` R20 to R47) as plain data, why a step can stop, and the
state after reset (R46). -/

namespace Sys2Proof.Machine

open Sys2Proof

/-- Memory as the bytes that differ from the reset contents: (address, byte) pairs, addresses strictly
rising, none equal to what an unlisted address reads as (`Memory.unlisted`, Ops). Log entry 33. -/
abbrev Memory := List Host.Cell

/-- The framebuffer: bit `x + 64 * y` is the pixel at column `x`, row `y`; 1 is lit (R39). -/
abbrev Framebuffer := BitVec 2048

/-- The complete state of R47, and `draws` and `keyDraws`, which are the model's own. -/
structure State where
  /-- The 4096-byte memory (R43, R60). -/
  mem   : Memory
  /-- The general registers V0 to VF (R20). -/
  V     : Vector Byte 16
  /-- The index register (R24). -/
  I     : Word
  /-- The program counter: the address of the executing instruction's high byte (R25). -/
  pc    : Word
  /-- The call-stack entries (R31, R34). -/
  stack : Vector Word 16
  /-- The stack pointer: how many entries are in use, 0 to 16 (R31). -/
  sp    : Fin 17
  /-- The delay timer (R36). -/
  DT    : Byte
  /-- The sound timer (R36). -/
  ST    : Byte
  /-- The beep-pending latch (R38). -/
  beep  : Bool
  /-- The 64×32 framebuffer (R39). -/
  fb    : Framebuffer
  /-- The framebuffer dirty flag (R41). -/
  dirty : Bool
  /-- The key latches; true is pressed (R42). -/
  key   : Vector Bool 16
  /-- The model's own field, not the spec's: how many bytes CXNN has drawn. It only picks which value of
  `Config.rand` is next (R45: the random source is not state). Log entry 18. -/
  draws : Nat
  /-- The model's own field, not the spec's: how many keys FX0A has drawn under `FX0A_SELECT = AnyPressed`.
  It only picks which value of `Config.keyPick` is next. Log entry 8. -/
  keyDraws : Nat
  deriving DecidableEq, Repr

/-- The faults of R267. A fault leaves the state as it was before the step or operation (R263), so the
outcome carries only the fault. -/
inductive Fault
  /-- Code 1. The fetch of any step, DXYN, FX33, FX55 and FX65 raise it, with the lowest address at or
  above 4096 in the range (R62). Safe: the spec raises it too. -/
  | outOfBounds (addr : Nat)
  /-- Code 2. 2NNN raises it when 16 entries are in use, with its pc (R32). Safe: the spec raises it too. -/
  | stackOverflow (pc : Word)
  /-- Code 3. 00EE raises it when no entry is in use, with its pc (R32). Safe: the spec raises it too. -/
  | stackUnderflow (pc : Word)
  /-- Code 4. The decode of any step raises it under `UNKNOWN_OPCODE_POLICY = Halt`, with the word and its
  pc (R265, R267). Safe: a build that skips the word goes on where the model stops (D1). -/
  | unknownOpcode (w : Word) (pc : Word)
  /-- Code 5. EX9E and EXA1 raise it when `V[x] > 15`, with `V[x]` (R230, R231). Safe: a build that masks
  the index goes on where the model stops (D8). -/
  | keyOutOfBounds (k : Byte)
  /-- Code 6. FX33 and FX55 raise it under `FONT_PROTECT`, with the lowest font address in the range (R71).
  Safe: a build that writes the font goes on where the model stops (D2). -/
  | fontWrite (addr : Nat)
  /-- Code 7. The host's `load` raises it, with the ROM's length (R80); no step does. Safe. -/
  | programTooLarge (len : Nat)
  /-- Code 8. The host's `press` and `release` raise it, with the index (R284); no step does. Safe. -/
  | keyIndexOutOfRange (k : Nat)
  deriving DecidableEq, Repr

/-- Why a step has no meaning. No instruction is refused. -/
inductive Refusal
  /-- Raised by an arm of `exec` whose instruction has no meaning yet; there is none. Safe: the machine
  stops. -/
  | notModelled (mnemonic : String)
  deriving DecidableEq, Repr

/-- What a step, a meaning or a shared operation answers. -/
abbrev Outcome := Host.Outcome State Fault Refusal

/-- The state after reset (R46, R300) under `RESET_POLICY = Zero`: pc is 0x200, memory has its reset
contents (the font, and 0 elsewhere), and everything else is 0 or false (D10, log entry 1). -/
def State.reset : State where
  mem   := []
  V     := Vector.replicate 16 0
  I     := 0
  pc    := 0x200
  stack := Vector.replicate 16 0
  sp    := 0
  DT    := 0
  ST    := 0
  beep  := false
  fb    := 0
  dirty := false
  key   := Vector.replicate 16 false
  draws := 0
  keyDraws := 0

end Sys2Proof.Machine
end

