-- ==== Sys2Proof/Machine/Ops.lean ====
section
/-! DEFINITION. The named operations over memory, registers, the call stack and the framebuffer, each written
once: the primitives of `00_scope.md` R13 and R14, `10_state.md` R32 and `40_display.md` R121. -/

namespace Sys2Proof.Machine

open Sys2Proof

/-! ### Memory (`20_memory.md` R60 to R72) -/

/-- What an address not listed reads as: the reset contents, that is the font at 0x000-0x04F and 0 elsewhere
(R46). Log entries 1, 19 and 33. -/
def Memory.unlisted (a : Nat) : Byte := standardFont.getD a 0

/-- The byte listed for an address, if one is. -/
def Memory.lookup : Memory → Nat → Option Byte
  | [], _ => none
  | (b, v) :: rest, a => if b = a then some v else Memory.lookup rest a

/-- `mem[a]` (R43). The bound of R62 is checked by the operations that access memory. -/
def Memory.read (m : Memory) (a : Nat) : Byte := (m.lookup a).getD (Memory.unlisted a)

/-- The list without the cells of one address. -/
def Memory.erase (m : Memory) (a : Nat) : Memory := m.filter fun c => c.1 != a

/-- A cell put before the first cell of a greater address. -/
def Memory.insert : Memory → Nat → Byte → Memory
  | [], a, v => [(a, v)]
  | (b, w) :: rest, a, v => if a < b then (a, v) :: (b, w) :: rest else (b, w) :: Memory.insert rest a v

/-- `mem[a] <- v` (R13, R69): a byte equal to the reset contents is not listed. -/
def Memory.write (m : Memory) (a : Nat) (v : Byte) : Memory :=
  if v = Memory.unlisted a then m.erase a else (m.erase a).insert a v

/-- Bytes written at ascending addresses, the first at `a` (R64). -/
def Memory.writeBytes (m : Memory) (a : Nat) : List Byte → Memory
  | [] => m
  | v :: rest => Memory.writeBytes (m.write a v) (a + 1) rest

/-- The canonical form: addresses strictly rising from `lo` on and below 4096, no byte equal to the reset
contents. -/
def Memory.wfFrom : Nat → Memory → Bool
  | _, [] => true
  | lo, (a, v) :: rest =>
    decide (lo ≤ a) && decide (a < memSize) && decide (v ≠ Memory.unlisted a) && Memory.wfFrom (a + 1) rest

/-- Memory is in its canonical form. Log entry 33. -/
def Memory.wf (m : Memory) : Bool := Memory.wfFrom 0 m

/-! ### Registers, flag and pc (`10_state.md` R20 to R30) -/

/-- `V[x]` (R20). -/
def State.reg (s : State) (x : Reg) : Byte := s.V[x.val]

/-- `V[x] <- v` (R12). -/
def State.setReg (s : State) (x : Reg) (v : Byte) : State := { s with V := s.V.set x.val v }

/-- VF written as a flag: 1 or 0 (R22, R29). -/
def State.setFlag (s : State) (f : Bool) : State := s.setReg vf (if f then 1 else 0)

/-- A result and a flag: `V[x]` first, VF last, so that VF ends as the flag when `x` is 15 (R23, R183; D5,
log entry 7). -/
def State.setResultFlag (s : State) (x : Reg) (r : Byte × Bool) : State := (s.setReg x r.1).setFlag r.2

/-- `I <- v` (R24). -/
def State.setI (s : State) (v : Word) : State := { s with I := v }

/-- `pc <- t` (R25); no target is checked when it is set (R148). -/
def State.setPc (s : State) (t : Word) : State := { s with pc := t }

/-- The source's `advance(n)`: plain 16-bit addition with no wraparound guard (R26, R28). -/
def State.advance (s : State) (n : Word) : State := s.setPc (s.pc + n)

/-- Normal completion: pc + 2 (R26). -/
def State.done (s : State) : State := s.advance 2

/-- A skip: pc + 4 when taken, pc + 2 when not (R26). -/
def State.skipIf (s : State) (taken : Bool) : State := s.advance (if taken then 4 else 2)

/-- `DT <- v` (R37). -/
def State.setDT (s : State) (v : Byte) : State := { s with DT := v }

/-- `ST <- v` (R37). -/
def State.setST (s : State) (v : Byte) : State := { s with ST := v }

/-- The key latch `k` written (R42). -/
def State.setKey (s : State) (k : KeyIndex) (pressed : Bool) : State := { s with key := s.key.set k.val pressed }

/-- Whether key `k` is pressed (R42). -/
def State.isPressed (s : State) (k : KeyIndex) : Bool := s.key[k.val]

/-- Memory replaced. -/
def State.setMem (s : State) (m : Memory) : State := { s with mem := m }

/-- The framebuffer replaced and `dirty` raised (R41): the two always go together. -/
def State.setFrame (s : State) (fb : Framebuffer) : State := { s with fb := fb, dirty := true }

/-- One byte drawn from the random source (R181). -/
def State.drawn (s : State) : State := { s with draws := s.draws + 1 }

/-- One key drawn among the pressed ones (R234). -/
def State.keyDrawn (s : State) : State := { s with keyDraws := s.keyDraws + 1 }

/-! ### Raising a fault, and the checks that raise one (R14, R62, R66, R71) -/

/-- `raise F(info)` (R14): the step ends with the fault and writes nothing. This is the whole of what an
exception is here: there is no trap entry and no return from one (R273, R274). -/
def raise (f : Fault) : Outcome := .fault f

/-- The bound of R62 on a range of `len` bytes from `start`, at full width: a range that leaves memory
raises `OutOfBounds` with its lowest address at or above 4096. An empty range touches nothing. -/
def guardRange (start len : Nat) (body : Outcome) : Outcome :=
  if len = 0 ∨ start + len ≤ memSize then body else raise (.outOfBounds (max start memSize))

/-- The font rule of R71 on a store whose lowest address is `start`. -/
def guardFont (c : Config) (start : Nat) (body : Outcome) : Outcome :=
  if c.fontProtect = true ∧ start < fontEnd then raise (.fontWrite start) else body

/-! ### The call stack (`10_state.md` R31 to R35) -/

/-- `Push(v)` (R32), then the rest of the instruction. -/
def push (s : State) (v : Word) (body : State → Outcome) : Outcome :=
  if h : s.sp.val < 16 then
    body { s with stack := s.stack.set s.sp.val v, sp := ⟨s.sp.val + 1, by omega⟩ }
  else raise (.stackOverflow s.pc)

/-- `Pop()` (R32), then the rest of the instruction with the popped value. The entry keeps its value (R35). -/
def pop (s : State) (body : Word → State → Outcome) : Outcome :=
  if h : 0 < s.sp.val then
    body (s.stack[s.sp.val - 1]'(by omega)) { s with sp := ⟨s.sp.val - 1, by omega⟩ }
  else raise (.stackUnderflow s.pc)

/-! ### The framebuffer (`10_state.md` R39, `40_display.md` R121 to R123) -/

/-- `fb[p]` (R39). -/
def Framebuffer.pixel (fb : Framebuffer) (p : Nat) : Bool := fb.getLsbD p

/-- `fb[p] <- fb[p] XOR 1` (R121). -/
def Framebuffer.flip (fb : Framebuffer) (p : Nat) : Framebuffer := fb ^^^ BitVec.twoPow 2048 p

/-- The pixel that bit `b` (0 is the MSB) of row `r` of a sprite at `(xs, ys)` lands on: it wraps, it does
not clip (R121, R122). -/
def pixelIndex (xs ys r b : Nat) : Nat := (xs + b) % 64 + 64 * ((ys + r) % 32)

/-- Bit `b` of a sprite row, most significant first: `row[7 - b]` (R121). -/
def spriteBit (row : Byte) (b : Nat) : Bool := row.getLsbD (7 - b)

/-- One set sprite bit: a lit pixel collides, and the pixel is flipped (R121). The pair is the framebuffer
and the collision flag so far. -/
def plot (p : Nat) (c : Framebuffer × Bool) : Framebuffer × Bool := (c.1.flip p, c.2 || c.1.pixel p)

/-- One row of a sprite, `b` from 0 to 7 (R121). -/
def drawRow (xs ys r : Nat) (row : Byte) (c : Framebuffer × Bool) : Framebuffer × Bool :=
  (List.range 8).foldl (fun c b => if spriteBit row b then plot (pixelIndex xs ys r b) c else c) c

/-- The rows of a sprite from row `r` on; the collision flag is an OR across them all (R121, R123). -/
def drawRows (xs ys : Nat) : Nat → List Byte → Framebuffer × Bool → Framebuffer × Bool
  | _, [], c => c
  | r, row :: rest, c => drawRows xs ys (r + 1) rest (drawRow xs ys r row c)

/-- A whole sprite drawn on a framebuffer, and whether a pixel went from set to unset. -/
def drawSprite (xs ys : Nat) (rows : List Byte) (fb : Framebuffer) : Framebuffer × Bool :=
  drawRows xs ys 0 rows (fb, false)

/-! ### Fault codes (R267) -/

/-- The code number the spec assigns to a fault (R267; D14, log entry 15). -/
def Fault.code : Fault → Nat
  | .outOfBounds _ => 1
  | .stackOverflow _ => 2
  | .stackUnderflow _ => 3
  | .unknownOpcode _ _ => 4
  | .keyOutOfBounds _ => 5
  | .fontWrite _ => 6
  | .programTooLarge _ => 7
  | .keyIndexOutOfRange _ => 8

/-- The information word of a fault (R267; D14, log entry 15). -/
def Fault.info : Fault → Nat
  | .outOfBounds a => a
  | .stackOverflow pc => pc.toNat
  | .stackUnderflow pc => pc.toNat
  | .unknownOpcode w _ => w.toNat
  | .keyOutOfBounds k => k.toNat
  | .fontWrite a => a
  | .programTooLarge n => n
  | .keyIndexOutOfRange k => k

end Sys2Proof.Machine
end

