-- ==== Sys2Proof/Machine/Operands.lean ====
section
/-! DEFINITION. Every operand form and addressing mode (`30_encoding.md` R93, `43_index_memory.md` R206): what
an instruction reads before it writes anything. -/

namespace Sys2Proof.Machine

open Sys2Proof

/-- The 12-bit address field where it meets `pc` or `I`: zero-extended to 16 bits (R93). -/
def addrOperand (nnn : Addr12) : Word := nnn.setWidth 16

/-- BNNN's target: a 16-bit sum with no mask to 12 bits (R147; log entry 29). -/
def addrPlusV0 (nnn : Addr12) (s : State) : Word := addrOperand nnn + (s.reg 0).setWidth 16

/-- The effective address `I + k` at full width (R206, R62): it never wraps to address 0. -/
def State.ea (s : State) (k : Nat) : Nat := s.I.toNat + k

/-- The bytes at `I .. I + len - 1`, ascending (R64). -/
def State.bytesAtI (s : State) (len : Nat) : List Byte := (List.range len).map fun k => s.mem.read (s.ea k)

/-- `V[0]` to `V[x]` in ascending order: what FX55 stores (R204). -/
def State.regsUpTo (s : State) (x : Reg) : List Byte := s.V.toList.take (x.val + 1)

/-- `V[0]` to `V[x]` replaced by the bytes at `I .. I + x`: what FX65 loads (R205). -/
def State.loadRegs (s : State) (x : Reg) : State :=
  { s with V := Vector.ofFn fun k : Fin 16 => if k.val ≤ x.val then s.mem.read (s.ea k.val) else s.reg k }

/-- `I <- I + x + 1`, the post-increment of FX55 and FX65 (R206). -/
def State.bumpI (s : State) (x : Reg) : State := s.setI (s.I + BitVec.ofNat 16 (x.val + 1))

/-- The hundreds, tens and units digits of a byte, each a plain number (R203). -/
def bcdDigits (v : Byte) : List Byte :=
  [BitVec.ofNat 8 (v.toNat / 100), BitVec.ofNat 8 (v.toNat / 10 % 10), BitVec.ofNat 8 (v.toNat % 10)]

/-- The glyph address of FX29: the whole register times 5, not masked to its low nibble (R202; log entry
30). -/
def glyphAddress (v : Byte) : Word := BitVec.ofNat 16 (v.toNat * 5)

/-- The operand of 8XY6 and 8XYE: `V[x]` or `V[y]`, as `SHIFT_SRC` says (R178, R180; D4, log entry 6). -/
def shiftOperand (c : Config) (x y : Reg) (s : State) : Byte :=
  match c.shiftSrc with
  | .vx => s.reg x
  | .vy => s.reg y

/-- The key index in a register, for the rest of the instruction: more than 15 raises `KeyOutOfBounds`
(R230, R231; D8, log entry 10). -/
def withKey (k : Byte) (body : KeyIndex → Outcome) : Outcome :=
  if h : k.toNat < 16 then body ⟨k.toNat, h⟩ else raise (.keyOutOfBounds k)

/-- The pressed keys, lowest first (R233). -/
def State.pressedKeys (s : State) : List KeyIndex := (List.finRange 16).filter s.isPressed

/-- The key FX0A takes among the pressed ones, of which `k` is the lowest: the lowest, or a draw among
them, as `FX0A_SELECT` says (R234; D6, log entry 8). -/
def chooseKey (c : Config) (k : KeyIndex) (s : State) : KeyIndex :=
  match c.fx0aSelect with
  | .lowest => k
  | .anyPressed => s.pressedKeys.getD (c.keyPick s.keyDraws % s.pressedKeys.length) k

/-- The state after FX0A has chosen: a draw is used up only under `FX0A_SELECT = AnyPressed`. -/
def afterChoice (c : Config) (s : State) : State :=
  match c.fx0aSelect with
  | .lowest => s
  | .anyPressed => s.keyDrawn

/-- The latch FX0A took, cleared only under `FX0A_CLEARS_LATCH` (R235; D7, log entry 9). -/
def afterTaking (c : Config) (k : KeyIndex) (s : State) : State :=
  if c.fx0aClearsLatch then s.setKey k false else s

end Sys2Proof.Machine
end

