-- ==== Sys2Proof/Machine/Alu.lean ====
section
/-! DEFINITION. The meanings of the register and arithmetic instructions (`42_alu.md`). -/

namespace Sys2Proof.Machine

open Sys2Proof

/-- 6XNN, LD Vx, NN (R170). -/
def execLdImm (x : Reg) (nn : Byte) (s : State) : Outcome := .next (s.setReg x nn).done

/-- 7XNN, ADD Vx, NN (R171): modulo 256, and VF is not written as a flag. -/
def execAddImm (x : Reg) (nn : Byte) (s : State) : Outcome := .next (s.setReg x (s.reg x + nn)).done

/-- 8XY0, LD Vx, Vy (R172). -/
def execLdReg (x y : Reg) (s : State) : Outcome := .next (s.setReg x (s.reg y)).done

/-- 8XY1, OR Vx, Vy (R173). -/
def execOrReg (x y : Reg) (s : State) : Outcome := .next (s.setReg x (s.reg x ||| s.reg y)).done

/-- 8XY2, AND Vx, Vy (R174). -/
def execAndReg (x y : Reg) (s : State) : Outcome := .next (s.setReg x (s.reg x &&& s.reg y)).done

/-- 8XY3, XOR Vx, Vy (R175). -/
def execXorReg (x y : Reg) (s : State) : Outcome := .next (s.setReg x (s.reg x ^^^ s.reg y)).done

/-- 8XY4, ADD Vx, Vy (R176). -/
def execAddReg (x y : Reg) (s : State) : Outcome := .next (s.setResultFlag x (addCarry (s.reg x) (s.reg y))).done

/-- 8XY5, SUB Vx, Vy (R177). -/
def execSubReg (x y : Reg) (s : State) : Outcome := .next (s.setResultFlag x (subNoBorrow (s.reg x) (s.reg y))).done

/-- 8XY6, SHR Vx (R178), under a configuration's `SHIFT_SRC`. -/
def execShrWith (c : Config) (x y : Reg) (s : State) : Outcome :=
  .next (s.setResultFlag x (shiftRightOut (shiftOperand c x y s))).done

/-- 8XY6, SHR Vx (R178), on this hardware. -/
def execShr (x y : Reg) (s : State) : Outcome := execShrWith Config.hardware x y s

/-- 8XY7, SUBN Vx, Vy (R179). -/
def execSubn (x y : Reg) (s : State) : Outcome := .next (s.setResultFlag x (subNoBorrow (s.reg y) (s.reg x))).done

/-- 8XYE, SHL Vx (R180), under a configuration's `SHIFT_SRC`. -/
def execShlWith (c : Config) (x y : Reg) (s : State) : Outcome :=
  .next (s.setResultFlag x (shiftLeftOut (shiftOperand c x y s))).done

/-- 8XYE, SHL Vx (R180), on this hardware. -/
def execShl (x y : Reg) (s : State) : Outcome := execShlWith Config.hardware x y s

/-- CXNN, RND Vx, NN (R181), when the random source answers `r`. -/
def execRndDraw (r : Byte) (x : Reg) (nn : Byte) (s : State) : Outcome := .next (s.setReg x (r &&& nn)).done

/-- CXNN, RND Vx, NN (R181), under a configuration's `RAND`: the byte is the next the source answers. -/
def execRndWith (c : Config) (x : Reg) (nn : Byte) (s : State) : Outcome := execRndDraw (c.rand s.draws) x nn s.drawn

/-- CXNN, RND Vx, NN (R181), on this hardware: the byte is a free value (D17, log entry 18). -/
def execRnd (x : Reg) (nn : Byte) (s : State) : Outcome := execRndWith Config.hardware x nn s

end Sys2Proof.Machine
end

