-- ==== Sys2Proof/Machine/ControlFlow.lean ====
section
/-! DEFINITION. The meanings of the control-flow instructions (`41_control_flow.md`). -/

namespace Sys2Proof.Machine

open Sys2Proof

/-- 00EE, RET (R140): the popped value is the call's own address, so the return is to it plus 2. -/
def execRet (s : State) : Outcome := pop s fun t s' => .next (s'.setPc (t + 2))

/-- 1NNN, JP NNN (R141). -/
def execJp (nnn : Addr12) (s : State) : Outcome := .next (s.setPc (addrOperand nnn))

/-- 2NNN, CALL NNN (R142): it pushes its own address. -/
def execCall (nnn : Addr12) (s : State) : Outcome := push s s.pc fun s' => .next (s'.setPc (addrOperand nnn))

/-- 3XNN, SE Vx, NN (R143). -/
def execSeImm (x : Reg) (nn : Byte) (s : State) : Outcome := .next (s.skipIf (s.reg x == nn))

/-- 4XNN, SNE Vx, NN (R144). -/
def execSneImm (x : Reg) (nn : Byte) (s : State) : Outcome := .next (s.skipIf (s.reg x != nn))

/-- 5XY0, SE Vx, Vy (R145). -/
def execSeReg (x y : Reg) (s : State) : Outcome := .next (s.skipIf (s.reg x == s.reg y))

/-- 9XY0, SNE Vx, Vy (R146). -/
def execSneReg (x y : Reg) (s : State) : Outcome := .next (s.skipIf (s.reg x != s.reg y))

/-- BNNN, JP V0, NNN (R147). -/
def execJpV0 (nnn : Addr12) (s : State) : Outcome := .next (s.setPc (addrPlusV0 nnn s))

end Sys2Proof.Machine
end

