-- ==== Sys2Proof/Machine/Display.lean ====
section
/-! DEFINITION. The meanings of the display instructions (`40_display.md`): 00E0 and DXYN. -/

namespace Sys2Proof.Machine

open Sys2Proof

/-- 00E0, CLS (R120). -/
def execCls (s : State) : Outcome := .next (s.setFrame 0).done

/-- DXYN, DRW Vx, Vy, N (R121 to R126): the coordinates and the sprite are read before anything is written,
and VF is written last. With N = 0 no memory is read (R124; D16, log entry 17). -/
def execDrw (x y : Reg) (n : RowCount) (s : State) : Outcome :=
  guardRange s.I.toNat n.val <|
    let drawn := drawSprite (s.reg x).toNat (s.reg y).toNat (s.bytesAtI n.val) s.fb
    .next ((s.setFrame drawn.1).setFlag drawn.2).done

end Sys2Proof.Machine
end

