-- ==== Sys2Proof/Machine/IndexMemory.lean ====
section
/-! DEFINITION. The meanings of the index-register and memory instructions (`43_index_memory.md`). -/

namespace Sys2Proof.Machine

open Sys2Proof

/-- ANNN, LD I, NNN (R200). -/
def execLdI (nnn : Addr12) (s : State) : Outcome := .next (s.setI (addrOperand nnn)).done

/-- FX1E, ADD I, Vx (R201): VF is written last, on every execution. -/
def execAddIVx (x : Reg) (s : State) : Outcome :=
  .next ((s.setI (indexAdd s.I (s.reg x)).1).setFlag (indexAdd s.I (s.reg x)).2).done

/-- FX29, LD F, Vx (R202). -/
def execLdFVx (x : Reg) (s : State) : Outcome := .next (s.setI (glyphAddress (s.reg x))).done

/-- FX33, LD B, Vx (R203), under a configuration's `FONT_PROTECT`. I is unchanged. -/
def execLdBVxWith (c : Config) (x : Reg) (s : State) : Outcome :=
  guardRange s.I.toNat 3 <| guardFont c s.I.toNat <|
    .next (s.setMem (s.mem.writeBytes s.I.toNat (bcdDigits (s.reg x)))).done

/-- FX33, LD B, Vx (R203), on this hardware. -/
def execLdBVx (x : Reg) (s : State) : Outcome := execLdBVxWith Config.hardware x s

/-- FX55, LD [I], Vx (R204), under a configuration's `FONT_PROTECT`. -/
def execLdMemVxWith (c : Config) (x : Reg) (s : State) : Outcome :=
  guardRange s.I.toNat (x.val + 1) <| guardFont c s.I.toNat <|
    .next ((s.setMem (s.mem.writeBytes s.I.toNat (s.regsUpTo x))).bumpI x).done

/-- FX55, LD [I], Vx (R204), on this hardware. -/
def execLdMemVx (x : Reg) (s : State) : Outcome := execLdMemVxWith Config.hardware x s

/-- FX65, LD Vx, [I] (R205). With x = 15 VF is loaded as a plain register. -/
def execLdVxMem (x : Reg) (s : State) : Outcome :=
  guardRange s.I.toNat (x.val + 1) <| .next ((s.loadRegs x).bumpI x).done

end Sys2Proof.Machine
end

