-- ==== Sys2Proof/Machine/KeysTimers.lean ====
section
/-! DEFINITION. The meanings of the keypad and timer instructions (`44_keys_timers.md`). -/

namespace Sys2Proof.Machine

open Sys2Proof

/-- EX9E, SKP Vx (R230): the latch is read, not consumed. -/
def execSkp (x : Reg) (s : State) : Outcome := withKey (s.reg x) fun k => .next (s.skipIf (s.isPressed k))

/-- EXA1, SKNP Vx (R231). -/
def execSknp (x : Reg) (s : State) : Outcome := withKey (s.reg x) fun k => .next (s.skipIf (!s.isPressed k))

/-- FX07, LD Vx, DT (R232). -/
def execLdVxDt (x : Reg) (s : State) : Outcome := .next (s.setReg x s.DT).done

/-- `wait` (R14, R236): the step ends with no state change, pc included. The status `Waiting` is
`State.waiting` (Configured); log entry 25. -/
def waitStep (s : State) : Outcome := .next s

/-- FX0A, LD Vx, K (R233 to R236), under a configuration's `FX0A_SELECT` and `FX0A_CLEARS_LATCH`: the latch
levels are tested at the step. -/
def execLdVxKWith (c : Config) (x : Reg) (s : State) : Outcome :=
  match s.pressedKeys with
  | [] => waitStep s
  | lowest :: _ =>
    let k := chooseKey c lowest s
    .next ((afterTaking c k (afterChoice c s)).setReg x (BitVec.ofNat 8 k.val)).done

/-- FX0A, LD Vx, K (R233 to R236), on this hardware. -/
def execLdVxK (x : Reg) (s : State) : Outcome := execLdVxKWith Config.hardware x s

/-- FX15, LD DT, Vx (R237). -/
def execLdDtVx (x : Reg) (s : State) : Outcome := .next (s.setDT (s.reg x)).done

/-- FX18, LD ST, Vx (R238): `beep` is not changed. -/
def execLdStVx (x : Reg) (s : State) : Outcome := .next (s.setST (s.reg x)).done

end Sys2Proof.Machine
end

