-- ==== Sys2Proof/Syntax.lean ====
section
/-! DEFINITION. The 34 instructions, one constructor per row of the opcode map (`30_encoding.md` R96, R99),
with the operands their format names (R92, R93). -/

namespace Sys2Proof

inductive Instr
  /-- 00E0, CLS (R120). -/
  | cls
  /-- 00EE, RET (R140). -/
  | ret
  /-- 1NNN, JP NNN (R141). -/
  | jp (nnn : Addr12)
  /-- 2NNN, CALL NNN (R142). -/
  | call (nnn : Addr12)
  /-- 3XNN, SE Vx, NN (R143). -/
  | seImm (x : Reg) (nn : Byte)
  /-- 4XNN, SNE Vx, NN (R144). -/
  | sneImm (x : Reg) (nn : Byte)
  /-- 5XY0, SE Vx, Vy (R145). -/
  | seReg (x y : Reg)
  /-- 6XNN, LD Vx, NN (R170). -/
  | ldImm (x : Reg) (nn : Byte)
  /-- 7XNN, ADD Vx, NN (R171). -/
  | addImm (x : Reg) (nn : Byte)
  /-- 8XY0, LD Vx, Vy (R172). -/
  | ldReg (x y : Reg)
  /-- 8XY1, OR Vx, Vy (R173). -/
  | orReg (x y : Reg)
  /-- 8XY2, AND Vx, Vy (R174). -/
  | andReg (x y : Reg)
  /-- 8XY3, XOR Vx, Vy (R175). -/
  | xorReg (x y : Reg)
  /-- 8XY4, ADD Vx, Vy (R176). -/
  | addReg (x y : Reg)
  /-- 8XY5, SUB Vx, Vy (R177). -/
  | subReg (x y : Reg)
  /-- 8XY6, SHR Vx: the `y` field is kept, since `SHIFT_SRC = VY` reads it (R178). -/
  | shr (x y : Reg)
  /-- 8XY7, SUBN Vx, Vy (R179). -/
  | subn (x y : Reg)
  /-- 8XYE, SHL Vx: the `y` field is kept, since `SHIFT_SRC = VY` reads it (R180). -/
  | shl (x y : Reg)
  /-- 9XY0, SNE Vx, Vy (R146). -/
  | sneReg (x y : Reg)
  /-- ANNN, LD I, NNN (R200). -/
  | ldI (nnn : Addr12)
  /-- BNNN, JP V0, NNN (R147). -/
  | jpV0 (nnn : Addr12)
  /-- CXNN, RND Vx, NN (R181). -/
  | rnd (x : Reg) (nn : Byte)
  /-- DXYN, DRW Vx, Vy, N (R121). -/
  | drw (x y : Reg) (n : RowCount)
  /-- EX9E, SKP Vx (R230). -/
  | skp (x : Reg)
  /-- EXA1, SKNP Vx (R231). -/
  | sknp (x : Reg)
  /-- FX07, LD Vx, DT (R232). -/
  | ldVxDt (x : Reg)
  /-- FX0A, LD Vx, K (R233). -/
  | ldVxK (x : Reg)
  /-- FX15, LD DT, Vx (R237). -/
  | ldDtVx (x : Reg)
  /-- FX18, LD ST, Vx (R238). -/
  | ldStVx (x : Reg)
  /-- FX1E, ADD I, Vx (R201). -/
  | addIVx (x : Reg)
  /-- FX29, LD F, Vx (R202). -/
  | ldFVx (x : Reg)
  /-- FX33, LD B, Vx (R203). -/
  | ldBVx (x : Reg)
  /-- FX55, LD [I], Vx (R204). -/
  | ldMemVx (x : Reg)
  /-- FX65, LD Vx, [I] (R205). -/
  | ldVxMem (x : Reg)
  deriving DecidableEq, Repr

end Sys2Proof
end

