-- ==== Sys2Proof/WellFormed.lean ====
section
/-! DEFINITION. What is checked of an instruction's operands and of a configuration. `Instr` narrows every
operand by its type, so the checks are on the plain numbers an operand is written as (`30_encoding.md`
R93, R101), before they are narrowed; those of an `Instr` always pass. -/

namespace Sys2Proof

/-- The operands of an instruction as plain numbers; a field the instruction does not have is 0. -/
structure OperandNumbers where
  x   : Nat := 0
  y   : Nat := 0
  n   : Nat := 0
  nn  : Nat := 0
  nnn : Nat := 0
  deriving DecidableEq, Repr

/-- The field widths of R91 and R93: `x`, `y` and `n` are nibbles, `nn` a byte, `nnn` twelve bits. -/
def OperandNumbers.wellFormed (o : OperandNumbers) : Bool :=
  decide (o.x < 16) && decide (o.y < 16) && decide (o.n < 16) && decide (o.nn < 256) && decide (o.nnn < 4096)

/-- The operand numbers of an instruction. -/
def Instr.operandNumbers : Instr → OperandNumbers
  | .cls => {}
  | .ret => {}
  | .jp nnn => { nnn := nnn.toNat }
  | .call nnn => { nnn := nnn.toNat }
  | .seImm x nn => { x := x.val, nn := nn.toNat }
  | .sneImm x nn => { x := x.val, nn := nn.toNat }
  | .seReg x y => { x := x.val, y := y.val }
  | .ldImm x nn => { x := x.val, nn := nn.toNat }
  | .addImm x nn => { x := x.val, nn := nn.toNat }
  | .ldReg x y => { x := x.val, y := y.val }
  | .orReg x y => { x := x.val, y := y.val }
  | .andReg x y => { x := x.val, y := y.val }
  | .xorReg x y => { x := x.val, y := y.val }
  | .addReg x y => { x := x.val, y := y.val }
  | .subReg x y => { x := x.val, y := y.val }
  | .shr x y => { x := x.val, y := y.val }
  | .subn x y => { x := x.val, y := y.val }
  | .shl x y => { x := x.val, y := y.val }
  | .sneReg x y => { x := x.val, y := y.val }
  | .ldI nnn => { nnn := nnn.toNat }
  | .jpV0 nnn => { nnn := nnn.toNat }
  | .rnd x nn => { x := x.val, nn := nn.toNat }
  | .drw x y n => { x := x.val, y := y.val, n := n.val }
  | .skp x => { x := x.val }
  | .sknp x => { x := x.val }
  | .ldVxDt x => { x := x.val }
  | .ldVxK x => { x := x.val }
  | .ldDtVx x => { x := x.val }
  | .ldStVx x => { x := x.val }
  | .addIVx x => { x := x.val }
  | .ldFVx x => { x := x.val }
  | .ldBVx x => { x := x.val }
  | .ldMemVx x => { x := x.val }
  | .ldVxMem x => { x := x.val }

/-- An instruction is well formed when its operand numbers are; `Instr.wellFormed_all` (Laws) says that
every `Instr` is. -/
def Instr.wellFormed (i : Instr) : Bool := i.operandNumbers.wellFormed

/-- A configuration is well formed when its font has the 80 bytes of 16 glyphs (R44). -/
def Config.wellFormed (c : Config) : Bool := c.font.length == fontEnd

end Sys2Proof
end

