-- ==== Sys2Proof/Decode.lean ====
section
/-! DEFINITION. The opcode map (`30_encoding.md` R90 to R97): the fields of a word, the decoder, total on any
bytes and rejecting by name, the table of fixed bits, and the encoder written from it. -/

namespace Sys2Proof

/-! ### Fields of a word (R11, R91) and its byte order (R63) -/

/-- `w[hi:lo]`, the field of `w` from bit `hi` down to bit `lo`, as a number (R11). -/
def bits (w : Word) (hi lo : Nat) : Nat := w.toNat / 2 ^ lo % 2 ^ (hi + 1 - lo)

/-- `op`, bits 15 to 12. -/
def opField (w : Word) : Nat := bits w 15 12

/-- `x`, bits 11 to 8. -/
def xField (w : Word) : Reg := Fin.ofNat 16 (bits w 11 8)

/-- `y`, bits 7 to 4. -/
def yField (w : Word) : Reg := Fin.ofNat 16 (bits w 7 4)

/-- `n`, bits 3 to 0. -/
def nField (w : Word) : RowCount := Fin.ofNat 16 (bits w 3 0)

/-- `nn`, bits 7 to 0. -/
def nnField (w : Word) : Byte := BitVec.ofNat 8 (bits w 7 0)

/-- `nnn`, bits 11 to 0. -/
def nnnField (w : Word) : Addr12 := BitVec.ofNat 12 (bits w 11 0)

/-- The word two bytes make, the first being the high byte (R63). -/
def wordOfBytes (hi lo : Byte) : Word := hi ++ lo

/-- `w[15:8]`, stored at the lower address (R63). -/
def highByte (w : Word) : Byte := BitVec.ofNat 8 (bits w 15 8)

/-- `w[7:0]`, stored at the higher address (R63). -/
def lowByte (w : Word) : Byte := BitVec.ofNat 8 (bits w 7 0)

/-! ### The decoder (R94, R95): `op` first, then the secondary selector -/

/-- op 0: the whole word selects (R94). -/
def decodeSystem (w : Word) : Option Instr :=
  if w = 0x00E0 then some .cls
  else if w = 0x00EE then some .ret
  else none

/-- op 8: `n` selects the operation (R94, R96). -/
def decodeAlu (w : Word) : Option Instr :=
  match (nField w).val with
  | 0x0 => some (.ldReg (xField w) (yField w))
  | 0x1 => some (.orReg (xField w) (yField w))
  | 0x2 => some (.andReg (xField w) (yField w))
  | 0x3 => some (.xorReg (xField w) (yField w))
  | 0x4 => some (.addReg (xField w) (yField w))
  | 0x5 => some (.subReg (xField w) (yField w))
  | 0x6 => some (.shr (xField w) (yField w))
  | 0x7 => some (.subn (xField w) (yField w))
  | 0xE => some (.shl (xField w) (yField w))
  | _ => none

/-- op E: `nn` selects (R94, R96). -/
def decodeKey (w : Word) : Option Instr :=
  match bits w 7 0 with
  | 0x9E => some (.skp (xField w))
  | 0xA1 => some (.sknp (xField w))
  | _ => none

/-- op F: `nn` selects (R94, R96). -/
def decodeMisc (w : Word) : Option Instr :=
  match bits w 7 0 with
  | 0x07 => some (.ldVxDt (xField w))
  | 0x0A => some (.ldVxK (xField w))
  | 0x15 => some (.ldDtVx (xField w))
  | 0x18 => some (.ldStVx (xField w))
  | 0x1E => some (.addIVx (xField w))
  | 0x29 => some (.ldFVx (xField w))
  | 0x33 => some (.ldBVx (xField w))
  | 0x55 => some (.ldMemVx (xField w))
  | 0x65 => some (.ldVxMem (xField w))
  | _ => none

/-- The instruction a word is, or `none` for an unrecognised word. Every fixed digit of a pattern is
matched, the low 0 of 5XY0 and 9XY0 among them (R95; D3). -/
def decodeWord (w : Word) : Option Instr :=
  match opField w with
  | 0x0 => decodeSystem w
  | 0x1 => some (.jp (nnnField w))
  | 0x2 => some (.call (nnnField w))
  | 0x3 => some (.seImm (xField w) (nnField w))
  | 0x4 => some (.sneImm (xField w) (nnField w))
  | 0x5 => if (nField w).val = 0 then some (.seReg (xField w) (yField w)) else none
  | 0x6 => some (.ldImm (xField w) (nnField w))
  | 0x7 => some (.addImm (xField w) (nnField w))
  | 0x8 => decodeAlu w
  | 0x9 => if (nField w).val = 0 then some (.sneReg (xField w) (yField w)) else none
  | 0xA => some (.ldI (nnnField w))
  | 0xB => some (.jpV0 (nnnField w))
  | 0xC => some (.rnd (xField w) (nnField w))
  | 0xD => some (.drw (xField w) (yField w) (nField w))
  | 0xE => decodeKey w
  | 0xF => decodeMisc w
  | _ => none

/-- Why bytes do not decode. -/
inductive DecodeError
  /-- Fewer than the two bytes of an instruction (R90). -/
  | truncated
  /-- The word matches no row of the opcode map (R95, R97). -/
  | unrecognised (w : Word)
  deriving DecidableEq, Repr

/-- The instruction at the head of a list of bytes, and the bytes after it (R90, R63). -/
def decode : List Byte → Except DecodeError (Instr × List Byte)
  | hi :: lo :: rest =>
    match decodeWord (wordOfBytes hi lo) with
    | some i => .ok (i, rest)
    | none => .error (.unrecognised (wordOfBytes hi lo))
  | _ => .error .truncated

/-! ### The table of fixed bits and the encoder -/

/-- One row of the opcode map: its mnemonic, and the fixed bits of its pattern under their mask. -/
structure OpcodeRow where
  mnemonic : String
  pattern  : Word
  mask     : Word
  deriving DecidableEq, Repr

/-- A word matches a row when it has the row's fixed bits (R95). -/
def OpcodeRow.matchesWord (r : OpcodeRow) (w : Word) : Bool := (w &&& r.mask) == r.pattern

/-- The row of each instruction, as `opcode_table.json` gives its match and mask. -/
def Instr.row : Instr → OpcodeRow
  | .cls => ⟨"CLS", 0x00E0, 0xFFFF⟩
  | .ret => ⟨"RET", 0x00EE, 0xFFFF⟩
  | .jp _ => ⟨"JP_NNN", 0x1000, 0xF000⟩
  | .call _ => ⟨"CALL_NNN", 0x2000, 0xF000⟩
  | .seImm _ _ => ⟨"SE_Vx__NN", 0x3000, 0xF000⟩
  | .sneImm _ _ => ⟨"SNE_Vx__NN", 0x4000, 0xF000⟩
  | .seReg _ _ => ⟨"SE_Vx__Vy", 0x5000, 0xF00F⟩
  | .ldImm _ _ => ⟨"LD_Vx__NN", 0x6000, 0xF000⟩
  | .addImm _ _ => ⟨"ADD_Vx__NN", 0x7000, 0xF000⟩
  | .ldReg _ _ => ⟨"LD_Vx__Vy", 0x8000, 0xF00F⟩
  | .orReg _ _ => ⟨"OR_Vx__Vy", 0x8001, 0xF00F⟩
  | .andReg _ _ => ⟨"AND_Vx__Vy", 0x8002, 0xF00F⟩
  | .xorReg _ _ => ⟨"XOR_Vx__Vy", 0x8003, 0xF00F⟩
  | .addReg _ _ => ⟨"ADD_Vx__Vy", 0x8004, 0xF00F⟩
  | .subReg _ _ => ⟨"SUB_Vx__Vy", 0x8005, 0xF00F⟩
  | .shr _ _ => ⟨"SHR_Vx", 0x8006, 0xF00F⟩
  | .subn _ _ => ⟨"SUBN_Vx__Vy", 0x8007, 0xF00F⟩
  | .shl _ _ => ⟨"SHL_Vx", 0x800E, 0xF00F⟩
  | .sneReg _ _ => ⟨"SNE_Vx__Vy", 0x9000, 0xF00F⟩
  | .ldI _ => ⟨"LD_I__NNN", 0xA000, 0xF000⟩
  | .jpV0 _ => ⟨"JP_V0__NNN", 0xB000, 0xF000⟩
  | .rnd _ _ => ⟨"RND_Vx__NN", 0xC000, 0xF000⟩
  | .drw _ _ _ => ⟨"DRW_Vx__Vy__N", 0xD000, 0xF000⟩
  | .skp _ => ⟨"SKP_Vx", 0xE09E, 0xF0FF⟩
  | .sknp _ => ⟨"SKNP_Vx", 0xE0A1, 0xF0FF⟩
  | .ldVxDt _ => ⟨"LD_Vx__DT", 0xF007, 0xF0FF⟩
  | .ldVxK _ => ⟨"LD_Vx__K", 0xF00A, 0xF0FF⟩
  | .ldDtVx _ => ⟨"LD_DT__Vx", 0xF015, 0xF0FF⟩
  | .ldStVx _ => ⟨"LD_ST__Vx", 0xF018, 0xF0FF⟩
  | .addIVx _ => ⟨"ADD_I__Vx", 0xF01E, 0xF0FF⟩
  | .ldFVx _ => ⟨"LD_F__Vx", 0xF029, 0xF0FF⟩
  | .ldBVx _ => ⟨"LD_B__Vx", 0xF033, 0xF0FF⟩
  | .ldMemVx _ => ⟨"LD__I___Vx", 0xF055, 0xF0FF⟩
  | .ldVxMem _ => ⟨"LD_Vx___I", 0xF065, 0xF0FF⟩

/-- The opcode map: one row per instruction, in the order of R96. -/
def opcodeTable : List OpcodeRow :=
  [Instr.row .cls, Instr.row .ret, Instr.row (.jp 0), Instr.row (.call 0), Instr.row (.seImm 0 0), Instr.row (.sneImm 0 0), Instr.row (.seReg 0 0)] ++
  [Instr.row (.ldImm 0 0), Instr.row (.addImm 0 0), Instr.row (.ldReg 0 0), Instr.row (.orReg 0 0), Instr.row (.andReg 0 0), Instr.row (.xorReg 0 0), Instr.row (.addReg 0 0), Instr.row (.subReg 0 0), Instr.row (.shr 0 0), Instr.row (.subn 0 0), Instr.row (.shl 0 0), Instr.row (.sneReg 0 0)] ++
  [Instr.row (.ldI 0), Instr.row (.jpV0 0), Instr.row (.rnd 0 0), Instr.row (.drw 0 0 0), Instr.row (.skp 0), Instr.row (.sknp 0)] ++
  [Instr.row (.ldVxDt 0), Instr.row (.ldVxK 0), Instr.row (.ldDtVx 0), Instr.row (.ldStVx 0), Instr.row (.addIVx 0), Instr.row (.ldFVx 0), Instr.row (.ldBVx 0), Instr.row (.ldMemVx 0), Instr.row (.ldVxMem 0)]

/-- The word of an instruction: its row's pattern with each operand in its field (R92). -/
def encode (i : Instr) : Word :=
  let o := i.operandNumbers
  BitVec.ofNat 16 (i.row.pattern.toNat + o.x * 0x100 + o.y * 0x10 + o.n + o.nn + o.nnn)

/-- The bytes of an instruction, high byte first (R63). -/
def encodeBytes (i : Instr) : List Byte := [highByte (encode i), lowByte (encode i)]

/-- The word that the low `nbits` bits of `w` are, the rest of the instruction's 16 bits being 0. -/
def tableWord (nbits w : Nat) : Word := BitVec.ofNat 16 (w % 2 ^ nbits)

/-- What the decoder reads from an instruction whose bits are `w`, numbered as the opcode table numbers
them: the word laid out high byte first, then decoded. -/
def decodeTableWord (nbits w : Nat) : Option Instr :=
  match decode [highByte (tableWord nbits w), lowByte (tableWord nbits w)] with
  | .ok (i, _) => some i
  | .error _ => none

end Sys2Proof
end

