-- ==== Sys2Proof/Machine/Fetch.lean ====
section
/-! DEFINITION. Fetching an instruction's bytes, and what a step does around `exec`: fetch, decode, execute, in
the order of `20_memory.md` R66 and `60_exceptions.md` R268. -/

namespace Sys2Proof.Machine

open Sys2Proof

/-- The fetch (R62, R63): two bytes, high byte at `pc`, at any alignment (R65); `OutOfBounds` when `pc` or
`pc + 1` is not below 4096. -/
def fetchWord (s : State) : Except Fault Word :=
  if s.pc.toNat + 1 < memSize then
    .ok (wordOfBytes (s.mem.read s.pc.toNat) (s.mem.read (s.pc.toNat + 1)))
  else .error (.outOfBounds (max s.pc.toNat memSize))

/-- An unrecognised word (R265, R266; D1, log entry 3): the fault `UnknownOpcode`, or pc + 2 and nothing
else, as `UNKNOWN_OPCODE_POLICY` says. -/
def unknownWord (c : Config) (w : Word) (s : State) : Outcome :=
  match c.unknownOpcode with
  | .halt => raise (.unknownOpcode w s.pc)
  | .skip => .next s.done

/-- Fetch, decode, execute, given what executes an instruction (R66, R268; log entry 16). -/
def stepVia (c : Config) (run : Instr → State → Outcome) (s : State) : Outcome :=
  match fetchWord s with
  | .error f => raise f
  | .ok w =>
    match decodeWord w with
    | none => unknownWord c w s
    | some i => run i s

/-- The state with a word stored at `pc` and `pc + 1`, high byte first (R63). -/
def State.placeWord (s : State) (w : Word) : State :=
  s.setMem (s.mem.writeBytes s.pc.toNat [highByte w, lowByte w])

/-- The state with a pc an instruction can be fetched at: its own, or the program origin where its own is
beyond memory. Log entry 31. -/
def State.withFetchablePc (s : State) : State :=
  if s.pc.toNat + 1 < memSize then s else s.setPc (BitVec.ofNat 16 programOrigin)

end Sys2Proof.Machine
end

