-- ==== Sys2Proof/Machine/Step.lean ====
section
/-! DEFINITION. One `step()` of this hardware, and an instruction placed where it fetches. -/

namespace Sys2Proof.Machine

open Sys2Proof

/-- One `step()` on this hardware: fetch one instruction, decode it, execute it (R17, R66). -/
def step (s : State) : Host.Outcome State Fault Refusal := stepVia Config.hardware exec s

/-- The instruction whose bits are `w`, stored where `step` fetches its next instruction. It stands for the
host's `load` (R304); log entry 31. -/
def State.withFetchWord (s : State) (nbits w : Nat) : State := s.withFetchablePc.placeWord (tableWord nbits w)

end Sys2Proof.Machine
end

