-- ==== Sys2Proof/Machine/Configured.lean ====
section
/-! DEFINITION. The same machine under any values of the parameters of `00_scope.md` R9, taken as an argument:
`exec` and `step` are this at `Config.hardware`. And the step as the host sees it: `Progressed`, `Waiting`
or `Fault` (`60_exceptions.md` R260 to R266). -/

namespace Sys2Proof.Machine

open Sys2Proof

/-- The meaning of an instruction under a configuration. -/
def execWith (c : Config) (i : Instr) (s : State) : Outcome :=
  match i with
  | .cls => execCls s
  | .ret => execRet s
  | .jp nnn => execJp nnn s
  | .call nnn => execCall nnn s
  | .seImm x nn => execSeImm x nn s
  | .sneImm x nn => execSneImm x nn s
  | .seReg x y => execSeReg x y s
  | .ldImm x nn => execLdImm x nn s
  | .addImm x nn => execAddImm x nn s
  | .ldReg x y => execLdReg x y s
  | .orReg x y => execOrReg x y s
  | .andReg x y => execAndReg x y s
  | .xorReg x y => execXorReg x y s
  | .addReg x y => execAddReg x y s
  | .subReg x y => execSubReg x y s
  | .shr x y => execShrWith c x y s
  | .subn x y => execSubn x y s
  | .shl x y => execShlWith c x y s
  | .sneReg x y => execSneReg x y s
  | .ldI nnn => execLdI nnn s
  | .jpV0 nnn => execJpV0 nnn s
  | .rnd x nn => execRndWith c x nn s
  | .drw x y n => execDrw x y n s
  | .skp x => execSkp x s
  | .sknp x => execSknp x s
  | .ldVxDt x => execLdVxDt x s
  | .ldVxK x => execLdVxKWith c x s
  | .ldDtVx x => execLdDtVx x s
  | .ldStVx x => execLdStVx x s
  | .addIVx x => execAddIVx x s
  | .ldFVx x => execLdFVx x s
  | .ldBVx x => execLdBVxWith c x s
  | .ldMemVx x => execLdMemVxWith c x s
  | .ldVxMem x => execLdVxMem x s

/-- One step under a configuration. -/
def stepWith (c : Config) (s : State) : Outcome := stepVia c (execWith c) s

/-- How a `step()` ends, as the host sees it (R260). -/
inductive StepReport
  /-- The instruction completed in this state, or an unrecognised word was skipped and the diagnostic names
  the word (R261, R266). -/
  | progressed (t : State) (diagnostic : Option Word)
  /-- FX0A found no key; nothing changed (R262). -/
  | waiting
  /-- The step failed and changed nothing (R263). -/
  | fault (f : Fault)
  /-- An instruction with no meaning. It never arises: there is no such instruction. -/
  | refused (r : Refusal)
  deriving DecidableEq, Repr

/-- The instruction the next step runs, where one is fetched and recognised. -/
def State.nextInstr (s : State) : Option Instr :=
  match fetchWord s with
  | .ok w => decodeWord w
  | .error _ => none

/-- The unrecognised word the next step fetches, if it fetches one. -/
def State.nextUnknown (s : State) : Option Word :=
  match fetchWord s with
  | .ok w => if (decodeWord w).isNone then some w else none
  | .error _ => none

/-- The next step is the FX0A wait: it fetches FX0A and no key is pressed (R262, R236). -/
def State.waiting (s : State) : Bool :=
  match s.nextInstr with
  | some (.ldVxK _) => s.pressedKeys.isEmpty
  | _ => false

/-- The outcome of `step()` under a configuration (R260). -/
def stepReport (c : Config) (s : State) : StepReport :=
  if s.waiting then .waiting
  else
    match stepWith c s with
    | .next t => .progressed t s.nextUnknown
    | .fault f => .fault f
    | .refused r => .refused r

/-- The state of the core after a `step()` that ended so: a wait and a fault leave it as it was (R262,
R263). -/
def StepReport.stateAfter (r : StepReport) (s : State) : State :=
  match r with
  | .progressed t _ => t
  | .waiting => s
  | .fault _ => s
  | .refused _ => s

end Sys2Proof.Machine
end

