-- ==== Sys2Proof/Machine/HostOps.lean ====
section
/-! DEFINITION. The host, the model's second agent (`00_scope.md` R19): every operation of its interface
(`60_exceptions.md` R283), each atomic and between two steps (`20_memory.md` R73; D12, log entry 13), and the
record of a run's first fault (R264). -/

namespace Sys2Proof.Machine

open Sys2Proof

/-! ### `load` (R79, R80) -/

/-- `load(rom)`: the bytes copied verbatim from 0x200 on, and no other state touched; a ROM longer than 3584
bytes fails and changes nothing (D21, log entry 22). -/
def load (rom : List Byte) (s : State) : Except Fault State :=
  if rom.length ≤ maxRom then .ok (s.setMem (s.mem.writeBytes programOrigin rom))
  else .error (.programTooLarge rom.length)

/-! ### Timers and the beep latch (R270 to R272) -/

/-- A timer's decrement: by 1 when it is nonzero (R36). -/
def countDown (t : Byte) : Byte := if t = 0 then 0 else t - 1

/-- `tick_timers()` (R270). -/
def tickTimers (s : State) : State :=
  { s with beep := s.ST == 1, DT := countDown s.DT, ST := countDown s.ST }

/-- `beepPending()` (R271): it changes nothing. -/
def beepPending (s : State) : Bool := s.beep

/-! ### Framebuffer and keypad (R278, R279, R284) -/

/-- The 2048 pixels and `dirty` (R278): reading changes nothing. -/
def readFramebuffer (s : State) : Framebuffer × Bool := (s.fb, s.dirty)

/-- `clearDirty()` (R278). -/
def clearDirty (s : State) : State := { s with dirty := false }

/-- `press(k)` and `release(k)`: bounds-checked, the last write wins (R279, R284; D22, log entry 23). -/
def writeLatch (k : Nat) (pressed : Bool) (s : State) : Except Fault State :=
  if h : k < 16 then .ok (s.setKey ⟨k, h⟩ pressed) else .error (.keyIndexOutOfRange k)

/-- `press(k)` (R279). -/
def press (k : Nat) (s : State) : Except Fault State := writeLatch k true s

/-- `release(k)` (R279). -/
def release (k : Nat) (s : State) : Except Fault State := writeLatch k false s

/-! ### `reset` (R300; `10_state.md` R46) -/

/-- The state after reset under a configuration. Under `RESET_POLICY = Zero` it is `State.reset` with the
configuration's font. Under `Unspecified` everything but pc and the font is what `powerUp` holds, and
nothing constrains `powerUp` (D10, log entry 2). -/
def resetFrom (c : Config) (powerUp : State) : State :=
  match c.resetPolicy with
  | .zero => { State.reset with mem := Memory.writeBytes [] 0 c.font }
  | .unspecified =>
    { powerUp with pc := BitVec.ofNat 16 programOrigin, mem := powerUp.mem.writeBytes 0 c.font }

/-- The host's `reset()`: the core constructed afresh. The random source is the host's and goes on, so the
counts of draws do too (log entry 34). -/
def hostReset (c : Config) (powerUp s : State) : State :=
  { resetFrom c powerUp with draws := s.draws, keyDraws := s.keyDraws }

/-! ### The operations together -/

/-- The host's operations (R283). -/
inductive HostOp
  | load (rom : List Byte)
  | step
  | tickTimers
  | beepPending
  | readFramebuffer
  | clearDirty
  | press (k : Nat)
  | release (k : Nat)
  /-- `powerUp` is what unspecified state holds; `RESET_POLICY = Zero` ignores it. -/
  | reset (powerUp : State)
  deriving DecidableEq, Repr

/-- What an operation answers the host (the result column of R283). -/
inductive HostReply
  | ok
  | failed (f : Fault)
  | stepped (r : StepReport)
  | beep (b : Bool)
  | frame (fb : Framebuffer) (dirty : Bool)
  deriving DecidableEq, Repr

/-- The state and the reply of an operation that may fail; a failure changes nothing (R263, R267). -/
def replyOf (s : State) : Except Fault State → State × HostReply
  | .ok t => (t, .ok)
  | .error f => (s, .failed f)

/-- One operation of the host (R283). -/
def hostOp (c : Config) (op : HostOp) (s : State) : State × HostReply :=
  match op with
  | .load rom => replyOf s (load rom s)
  | .step => ((stepReport c s).stateAfter s, .stepped (stepReport c s))
  | .tickTimers => (tickTimers s, .ok)
  | .beepPending => (s, .beep (beepPending s))
  | .readFramebuffer => (s, .frame (readFramebuffer s).1 (readFramebuffer s).2)
  | .clearDirty => (clearDirty s, .ok)
  | .press k => replyOf s (press k s)
  | .release k => replyOf s (release k s)
  | .reset powerUp => (hostReset c powerUp s, .ok)

/-! ### A run (R264, R287) -/

/-- A run: the core, and the first fault a step of it returned. The core itself has no fault latch (R264;
D13, log entry 14). -/
structure Run where
  core       : State
  firstFault : Option Fault
  deriving DecidableEq, Repr

/-- The fault a reply reports, if it is a step's. -/
def HostReply.stepFault : HostReply → Option Fault
  | .stepped (.fault f) => some f
  | _ => none

/-- One operation of the host in a run: the first fault is recorded and never cleared (R264). -/
def Run.apply (c : Config) (op : HostOp) (r : Run) : Run where
  core       := (hostOp c op r.core).1
  firstFault := r.firstFault <|> (hostOp c op r.core).2.stepFault

/-- A sequence of the host's operations, in the total order of R73. -/
def Run.applyAll (c : Config) (ops : List HostOp) (r : Run) : Run := ops.foldl (fun r op => r.apply c op) r

end Sys2Proof.Machine
end

