-- ==== Sys2Proof/Safety.lean ====
section
/-! DEFINITION. What counts as a good state and a safe run, in the terms the claims use: the invariant of the
core, the ends of a run (`60_exceptions.md` R287), and what a frame compares. -/

namespace Sys2Proof.Machine

open Sys2Proof

/-! ### The invariant -/

/-- The font range reads as a font (R71: its bytes keep their `FONT` values for the life of the core). -/
def State.fontIntact (font : List Byte) (s : State) : Prop :=
  ∀ a, a < fontEnd → s.mem.read a = font.getD a 0

/-- pc is at most 0x10FE, the largest a step can produce (R28), and every stack entry is an address a call
can stand at (R34, R62). -/
def State.pcBounded (s : State) : Prop :=
  s.pc.toNat ≤ 0x10FE ∧ ∀ k : Fin 16, (s.stack[k.val]).toNat ≤ 0xFFE

/-- What every step of this hardware keeps: memory in its canonical form, the font as it was at reset, and
pc and the stack in their bounds. -/
structure State.Inv (s : State) : Prop where
  memWf   : s.mem.wf = true
  font    : s.fontIntact standardFont
  bounded : s.pcBounded

/-! ### The ends of a run (R287) -/

/-- A self-loop: pc is at most 0xFFE and the fetched word is `0x1000 + pc`. -/
def State.selfLoop (s : State) : Bool :=
  match fetchWord s with
  | .ok w => decide (s.pc.toNat ≤ 0xFFE) && w == BitVec.ofNat 16 (0x1000 + s.pc.toNat)
  | .error _ => false

/-- A run has ended badly when a step of it has returned a fault. -/
def Run.endedBadly (r : Run) : Bool := r.firstFault.isSome

/-- A run has ended well when its core stands at a self-loop and no step has faulted. That a run which the host
has since moved off its self-loop, by a `load` or a reset, no longer counts is the model's choice (log entry
38). -/
def Run.endedWell (r : Run) : Bool := r.firstFault.isNone && r.core.selfLoop

/-! ### What a frame compares -/

/-- The parts of the state other than the general registers and pc. -/
inductive Part
  | index
  | stack
  | sp
  | delay
  | sound
  | beep
  | pixels
  | dirty
  | keys
  | memory
  | draws
  | keyDraws
  deriving DecidableEq, Repr

/-- A part is the same in two states; memory, when every byte of it reads the same. -/
def Part.same (s t : State) : Part → Prop
  | .index => t.I = s.I
  | .stack => t.stack = s.stack
  | .sp => t.sp = s.sp
  | .delay => t.DT = s.DT
  | .sound => t.ST = s.ST
  | .beep => t.beep = s.beep
  | .pixels => t.fb = s.fb
  | .dirty => t.dirty = s.dirty
  | .keys => t.key = s.key
  | .memory => ∀ a, t.mem.read a = s.mem.read a
  | .draws => t.draws = s.draws
  | .keyDraws => t.keyDraws = s.keyDraws

/-- Every register but those named, and every part but those named, is unchanged. -/
def unchangedBut (regs : List Reg) (parts : List Part) (s t : State) : Prop :=
  (∀ r, r ∉ regs → t.reg r = s.reg r) ∧ ∀ p, p ∉ parts → Part.same s t p

/-- Every byte of memory outside `len` bytes from `start` reads as before. -/
def sameMemoryOutside (start len : Nat) (s t : State) : Prop :=
  ∀ a, ¬(start ≤ a ∧ a < start + len) → t.mem.read a = s.mem.read a

/-! ### The encoding of an instruction, as its rule gives it -/

/-- Every word with the bits `pattern` under `mask` decodes to the instruction `f` of the word's fields. -/
def decodesUnder (mask pattern : Word) (f : Word → Instr) : Prop :=
  ∀ w : Word, w &&& mask = pattern → decodeWord w = some (f w)

/-- The word `pc` and `pc + 1` hold, where the fetch is in bounds. -/
def State.fetches (s : State) (w : Word) : Prop :=
  s.pc.toNat + 1 < memSize ∧ w = wordOfBytes (s.mem.read s.pc.toNat) (s.mem.read (s.pc.toNat + 1))

/-! ### DXYN's sprite, in closed form (`40_display.md` R121, R122) -/

/-- Whether a sprite of the `n` bytes at I, drawn at `(xs, ys)`, has a set bit on pixel `p`: the bit
`(p mod 64 - xs) mod 64` of the row `(p div 64 - ys) mod 32`. -/
def State.spriteCovers (s : State) (xs ys n p : Nat) : Bool :=
  let b := (p % 64 + (64 - xs % 64)) % 64
  let r := (p / 64 + (32 - ys % 32)) % 32
  decide (r < n) && decide (b < 8) && (s.mem.read (s.I.toNat + r)).getLsbD (7 - b)

/-- Whether such a sprite has a set bit on a lit pixel: it would turn it off. -/
def State.spriteCollides (s : State) (xs ys n : Nat) : Prop :=
  ∃ p, p < 2048 ∧ s.fb.pixel p = true ∧ s.spriteCovers xs ys n p = true

/-! ### What a program can observe (R35, R48) -/

/-- Two states that differ at most in what no instruction can read: ST, the beep latch and the dirty flag
(R48). -/
def sameToTheProgram (s t : State) : Prop := t = { s with ST := t.ST, beep := t.beep, dirty := t.dirty }

/-- Two states that differ at most in the stack entries not in use (R35). -/
def sameBelowSp (s t : State) : Prop :=
  t = { s with stack := t.stack } ∧ ∀ k : Fin 16, k.val < s.sp.val → t.stack[k.val] = s.stack[k.val]

/-- Two steps that end alike: in related states, or in the same fault or refusal. -/
def endAlike (R : State → State → Prop) : Outcome → Outcome → Prop
  | .next s, .next t => R s t
  | .fault f, .fault g => f = g
  | .refused r, .refused q => r = q
  | _, _ => False

end Sys2Proof.Machine
end

