-- ==== Sys2Proof/Certificates/Slice0/Obligations.lean ====
section
/-! DEFINITION. The statements for the provers, from the numbered rules of the spec. A statement about an
instruction holds for every form the spec gives it and says its frame; `exec` is this hardware's meaning
(`Config.hardware`), `execWith` that of any configuration. -/

open Sys2Proof Sys2Proof.Machine

/-! ### Encoding (`30_encoding.md`) -/

/-- Words written out from the patterns of the opcode map (R96), two of each operand format, decode to the
instructions they stand for. That 5121 does not decode is the choice of D3 (log entry 5); the low digit of 8F06
is read by inference (log entry 27). -/
def Obligations.SampleWordsDecode : Prop :=
  decodeWord 0x00E0 = some .cls ∧ decodeWord 0x00EE = some .ret ∧
  decodeWord 0x1234 = some (.jp 0x234) ∧ decodeWord 0x5120 = some (.seReg 1 2) ∧
  decodeWord 0x6A42 = some (.ldImm 0xA 0x42) ∧ decodeWord 0x8F06 = some (.shr 0xF 0) ∧
  decodeWord 0xAFFF = some (.ldI 0xFFF) ∧ decodeWord 0xC30F = some (.rnd 3 0x0F) ∧
  decodeWord 0xD125 = some (.drw 1 2 5) ∧ decodeWord 0xDFE0 = some (.drw 0xF 0xE 0) ∧ decodeWord 0xE5A1 = some (.sknp 5) ∧
  decodeWord 0xF265 = some (.ldVxMem 2) ∧ decodeWord 0x5121 = none ∧ decodeWord 0x0000 = none

/-- Decode and encode agree: every instruction is well formed, its word decodes to it, and its two bytes
at the head of any bytes decode to it and leave the rest. -/
def Obligations.DecodeOfEncodeIsTheInstruction : Prop :=
  ∀ (i : Instr) (rest : List Byte),
    i.wellFormed = true ∧ decodeWord (encode i) = some i ∧ decode (encodeBytes i ++ rest) = .ok (i, rest)

/-- No bit of a recognised word is lost: the instruction a word decodes to encodes to that word. It rests on the
choice of D3 (log entry 5): were the low digit of 5XY0 and 9XY0 not matched, several words would decode alike. -/
def Obligations.EncodeOfDecodeIsTheWord : Prop :=
  ∀ (w : Word) (i : Instr), decodeWord w = some i → encode i = w

/-- The unrecognised words are exactly those of R97's table. The ranges of 0NNN, 5XYn and 9XYn rest on the choice
of D3 (log entry 5), and that of 8XYn on which digits the nine operations take, read by inference (log entry
27). -/
def Obligations.UnrecognisedWordsAreThoseOfTheTable : Prop :=
  ∀ w : Word, decodeWord w = none ↔
    (opField w = 0x0 ∧ w ≠ 0x00E0 ∧ w ≠ 0x00EE) ∨
    (opField w = 0x5 ∧ (nField w).val ≠ 0) ∨
    (opField w = 0x8 ∧ (nField w).val ∈ [0x8, 0x9, 0xA, 0xB, 0xC, 0xD, 0xF]) ∨
    (opField w = 0x9 ∧ (nField w).val ≠ 0) ∨
    (opField w = 0xE ∧ (nnField w).toNat ∉ [0x9E, 0xA1]) ∨
    (opField w = 0xF ∧ (nnField w).toNat ∉ [0x07, 0x0A, 0x15, 0x18, 0x1E, 0x29, 0x33, 0x55, 0x65])

/-- A word decodes exactly when it matches a row of the opcode map, to an instruction of that row, and it
matches no other row (R95, with the fixed digits of D3, log entry 5, and the digits of 8XY_ of log entry 27). -/
def Obligations.WordMatchesOneRow : Prop :=
  ∀ w : Word,
    ((decodeWord w).isSome = true ↔ ∃ r ∈ opcodeTable, r.matchesWord w = true) ∧
    ∀ i, decodeWord w = some i →
      i.row ∈ opcodeTable ∧ i.row.matchesWord w = true ∧ ∀ r ∈ opcodeTable, r.matchesWord w = true → r = i.row

/-! ### A step -/

/-- A step runs the decoded instruction: when the word at `pc`, high byte first (R63), decodes to `i`, `step`
is `exec i`, and under any configuration `stepWith` is `execWith` of it; there is nothing around it. Where that
answers a next state and is not the wait of FX0A, the host's `step()` leaves that state and answers `Progressed`
with no diagnostic (R260, R261). -/
def Obligations.StepRunsTheDecodedInstruction : Prop :=
  ∀ (s : State) (w : Word) (i : Instr), s.fetches w → decodeWord w = some i →
    step s = exec i s ∧
    (∀ t, step s = .next t → s.waiting = false →
      hostOp Config.hardware .step s = (t, .stepped (.progressed t none))) ∧
    ∀ c : Config, stepWith c s = execWith c i s ∧
      ∀ t, stepWith c s = .next t → s.waiting = false → hostOp c .step s = (t, .stepped (.progressed t none))

/-- An instruction placed where `step` fetches is the one the next step runs (log entry 31). -/
def Obligations.PlacedInstructionIsRun : Prop :=
  ∀ (s : State) (w : Nat) (i : Instr),
    decodeTableWord 16 w = some i → step (s.withFetchWord 16 w) = exec i (s.withFetchWord 16 w)

/-- A fetch with `pc + 1` beyond memory faults with `OutOfBounds` and the lowest address at or above 4096
(R62, R148; the information word is the choice of D14). -/
def Obligations.FetchBeyondMemoryFaults : Prop :=
  ∀ (c : Config) (s : State), 4095 ≤ s.pc.toNat →
    stepWith c s = .fault (.outOfBounds (if s.pc.toNat = 4095 then 4096 else s.pc.toNat))

/-- An unrecognised word faults under `Halt`, which is this hardware, and is skipped with the diagnostic, pc
moving by 2 and nothing else changing, under `Skip` (the choice of D1, log entry 3). The fault's information, the
word and pc beside it, is that of D14 (log entry 15), and the form of the diagnostic is log entry 35. -/
def Obligations.UnknownWordHaltsOrIsSkipped : Prop :=
  ∀ (c : Config) (s : State) (w : Word), s.fetches w → decodeWord w = none →
    step s = .fault (.unknownOpcode w s.pc) ∧
    (c.unknownOpcode = .halt → stepReport c s = .fault (.unknownOpcode w s.pc)) ∧
    (c.unknownOpcode = .skip → ∃ t, stepReport c s = .progressed t (some w) ∧ t.pc = s.pc + 2 ∧ unchangedBut [] [] s t)

/-- No instruction and no step is refused. -/
def Obligations.NothingIsRefused : Prop :=
  (∀ c i s r, execWith c i s ≠ .refused r) ∧ (∀ i s r, exec i s ≠ .refused r) ∧
  (∀ c s r, stepReport c s ≠ .refused r)

/-! ### Registers and arithmetic (`42_alu.md`) -/

/-- 6XNN and 8XY0. That 8XY0 is the copy is read by inference (log entry 27). -/
def Obligations.LoadsIntoRegisters : Prop :=
  (decodesUnder 0xF000 0x6000 (fun w => .ldImm (xField w) (nnField w)) ∧
    ∀ x nn s, ∃ t, exec (.ldImm x nn) s = .next t ∧ t.reg x = nn ∧ t.pc = s.pc + 2 ∧ unchangedBut [x] [] s t) ∧
  (decodesUnder 0xF00F 0x8000 (fun w => .ldReg (xField w) (yField w)) ∧
    ∀ x y s, ∃ t, exec (.ldReg x y) s = .next t ∧ t.reg x = s.reg y ∧ t.pc = s.pc + 2 ∧ unchangedBut [x] [] s t)

/-- 7XNN (R171): the sum modulo 256; VF changes only as the destination. -/
def Obligations.AddImmediateWrapsWithNoFlag : Prop :=
  decodesUnder 0xF000 0x7000 (fun w => .addImm (xField w) (nnField w)) ∧
  ∀ x nn s, ∃ t, exec (.addImm x nn) s = .next t ∧ (t.reg x).toNat = ((s.reg x).toNat + nn.toNat) % 256 ∧
    t.pc = s.pc + 2 ∧ unchangedBut [x] [] s t

/-- 8XY1, 8XY2 and 8XY3, bit by bit; VF changes only as the destination. That these digits select OR, AND and
XOR is read by inference (log entry 27). -/
def Obligations.BitwiseOperations : Prop :=
  (decodesUnder 0xF00F 0x8001 (fun w => .orReg (xField w) (yField w)) ∧
    ∀ x y s, ∃ t, exec (.orReg x y) s = .next t ∧
      (∀ k, (t.reg x).getLsbD k = ((s.reg x).getLsbD k || (s.reg y).getLsbD k)) ∧
      t.pc = s.pc + 2 ∧ unchangedBut [x] [] s t) ∧
  (decodesUnder 0xF00F 0x8002 (fun w => .andReg (xField w) (yField w)) ∧
    ∀ x y s, ∃ t, exec (.andReg x y) s = .next t ∧
      (∀ k, (t.reg x).getLsbD k = ((s.reg x).getLsbD k && (s.reg y).getLsbD k)) ∧
      t.pc = s.pc + 2 ∧ unchangedBut [x] [] s t) ∧
  (decodesUnder 0xF00F 0x8003 (fun w => .xorReg (xField w) (yField w)) ∧
    ∀ x y s, ∃ t, exec (.xorReg x y) s = .next t ∧
      (∀ k, (t.reg x).getLsbD k = ((s.reg x).getLsbD k ^^ (s.reg y).getLsbD k)) ∧
      t.pc = s.pc + 2 ∧ unchangedBut [x] [] s t)

/-- 8XY4: the sum modulo 256 and the carry out of bit 7. That VF ends as the flag when x is 15 is the choice
of D5 (log entry 7); that the digit 4 selects it, log entry 27. -/
def Obligations.AddWithCarry : Prop :=
  decodesUnder 0xF00F 0x8004 (fun w => .addReg (xField w) (yField w)) ∧
  ∀ x y s, ∃ t, exec (.addReg x y) s = .next t ∧
    (x ≠ vf → (t.reg x).toNat = ((s.reg x).toNat + (s.reg y).toNat) % 256) ∧
    t.reg vf = (if (s.reg x).toNat + (s.reg y).toNat > 255 then 1 else 0) ∧
    t.pc = s.pc + 2 ∧ unchangedBut [x, vf] [] s t

/-- 8XY5 and 8XY7: the difference modulo 256 and NOT borrow. That VF ends as the flag when x is 15 is the
choice of D5 (log entry 7); that equal operands do not borrow, and 8XY7's convention, is log entry 28; that
the digits 5 and 7 select them, log entry 27. -/
def Obligations.SubtractWithNoBorrow : Prop :=
  decodesUnder 0xF00F 0x8005 (fun w => .subReg (xField w) (yField w)) ∧
  decodesUnder 0xF00F 0x8007 (fun w => .subn (xField w) (yField w)) ∧
  (∀ x y s, ∃ t, exec (.subReg x y) s = .next t ∧
    (x ≠ vf → (t.reg x).toNat = ((s.reg x).toNat + 256 - (s.reg y).toNat) % 256) ∧
    t.reg vf = (if (s.reg y).toNat ≤ (s.reg x).toNat then 1 else 0) ∧
    t.pc = s.pc + 2 ∧ unchangedBut [x, vf] [] s t) ∧
  (∀ x y s, ∃ t, exec (.subn x y) s = .next t ∧
    (x ≠ vf → (t.reg x).toNat = ((s.reg y).toNat + 256 - (s.reg x).toNat) % 256) ∧
    t.reg vf = (if (s.reg x).toNat ≤ (s.reg y).toNat then 1 else 0) ∧
    t.pc = s.pc + 2 ∧ unchangedBut [x, vf] [] s t)

/-- 8XY6 and 8XYE on this hardware, `SHIFT_SRC = VX` (the choice of D4, log entry 6), and VF last (D5, log
entry 7). That the digits 6 and E select them is log entry 27. -/
def Obligations.ShiftsOfVx : Prop :=
  decodesUnder 0xF00F 0x8006 (fun w => .shr (xField w) (yField w)) ∧
  decodesUnder 0xF00F 0x800E (fun w => .shl (xField w) (yField w)) ∧
  (∀ x y s, ∃ t, exec (.shr x y) s = .next t ∧ (x ≠ vf → (t.reg x).toNat = (s.reg x).toNat / 2) ∧
    (t.reg vf).toNat = (s.reg x).toNat % 2 ∧ t.pc = s.pc + 2 ∧ unchangedBut [x, vf] [] s t) ∧
  (∀ x y s, ∃ t, exec (.shl x y) s = .next t ∧ (x ≠ vf → (t.reg x).toNat = (s.reg x).toNat * 2 % 256) ∧
    (t.reg vf).toNat = (s.reg x).toNat / 128 ∧ t.pc = s.pc + 2 ∧ unchangedBut [x, vf] [] s t)

/-- 8XY6 and 8XYE under either `SHIFT_SRC` (D4, log entry 6): the shifted operand is `V[x]` or `V[y]`. -/
def Obligations.ShiftsUnderEitherSource : Prop :=
  ∀ (c : Config) (x y : Reg) (s : State),
    let src := if c.shiftSrc = .vx then (s.reg x).toNat else (s.reg y).toNat
    (∃ t, execWith c (.shr x y) s = .next t ∧ (x ≠ vf → (t.reg x).toNat = src / 2) ∧
      (t.reg vf).toNat = src % 2 ∧ t.pc = s.pc + 2 ∧ unchangedBut [x, vf] [] s t) ∧
    (∃ t, execWith c (.shl x y) s = .next t ∧ (x ≠ vf → (t.reg x).toNat = src * 2 % 256) ∧
      (t.reg vf).toNat = src / 128 ∧ t.pc = s.pc + 2 ∧ unchangedBut [x, vf] [] s t)

/-- CXNN: the drawn byte masked by NN, under every random source `RAND`, each of its bytes drawn once, in order;
on this hardware the source is the free value of log entry 18; and for every draw. -/
def Obligations.RandomByteIsMasked : Prop :=
  decodesUnder 0xF000 0xC000 (fun w => .rnd (xField w) (nnField w)) ∧
  (∀ (c : Config) x nn s, ∃ t, execWith c (.rnd x nn) s = .next t ∧
    (∀ k, (t.reg x).getLsbD k = (nn.getLsbD k && (c.rand s.draws).getLsbD k)) ∧
    t.draws = s.draws + 1 ∧ t.pc = s.pc + 2 ∧ unchangedBut [x] [.draws] s t) ∧
  (∀ x nn s, ∃ t, exec (.rnd x nn) s = .next t ∧
    (∀ k, (t.reg x).getLsbD k = (nn.getLsbD k && (Config.randByte s.draws).getLsbD k)) ∧
    t.draws = s.draws + 1 ∧ t.pc = s.pc + 2 ∧ unchangedBut [x] [.draws] s t) ∧
  (∀ (r : Byte) x nn s, ∃ t, execRndDraw r x nn s = .next t ∧ t.reg x = r &&& nn ∧ t.pc = s.pc + 2 ∧
    unchangedBut [x] [] s t)

/-! ### Control flow (`41_control_flow.md`) -/

/-- 3XNN and 4XNN (R143, R144): a taken skip is pc + 4, one not taken pc + 2, and nothing else changes,
whatever the skipped word is; the fetch at a pc beyond memory faults. -/
def Obligations.ImmediateSkips : Prop :=
  (decodesUnder 0xF000 0x3000 (fun w => .seImm (xField w) (nnField w)) ∧
    ∀ x nn s, ∃ t, exec (.seImm x nn) s = .next t ∧
      (s.reg x = nn → t.pc = s.pc + 4) ∧ (s.reg x ≠ nn → t.pc = s.pc + 2) ∧
      (4095 ≤ t.pc.toNat → ∃ a, step t = .fault (.outOfBounds a)) ∧ unchangedBut [] [] s t) ∧
  (decodesUnder 0xF000 0x4000 (fun w => .sneImm (xField w) (nnField w)) ∧
    ∀ x nn s, ∃ t, exec (.sneImm x nn) s = .next t ∧
      (s.reg x ≠ nn → t.pc = s.pc + 4) ∧ (s.reg x = nn → t.pc = s.pc + 2) ∧
      (4095 ≤ t.pc.toNat → ∃ a, step t = .fault (.outOfBounds a)) ∧ unchangedBut [] [] s t)

/-- 5XY0 and 9XY0. That their low nibble 0 is matched is the choice of D3 (log entry 5). -/
def Obligations.RegisterSkips : Prop :=
  (decodesUnder 0xF00F 0x5000 (fun w => .seReg (xField w) (yField w)) ∧
    ∀ x y s, ∃ t, exec (.seReg x y) s = .next t ∧
      (s.reg x = s.reg y → t.pc = s.pc + 4) ∧ (s.reg x ≠ s.reg y → t.pc = s.pc + 2) ∧ unchangedBut [] [] s t) ∧
  (decodesUnder 0xF00F 0x9000 (fun w => .sneReg (xField w) (yField w)) ∧
    ∀ x y s, ∃ t, exec (.sneReg x y) s = .next t ∧
      (s.reg x ≠ s.reg y → t.pc = s.pc + 4) ∧ (s.reg x = s.reg y → t.pc = s.pc + 2) ∧ unchangedBut [] [] s t)

/-- 1NNN and BNNN: no target is masked or checked; the fetch at one beyond memory faults. That BNNN's sum is not
masked to 12 bits is read by inference (log entry 29). -/
def Obligations.Jumps : Prop :=
  (decodesUnder 0xF000 0x1000 (fun w => .jp (nnnField w)) ∧
    ∀ nnn s, ∃ t, exec (.jp nnn) s = .next t ∧ t.pc.toNat = nnn.toNat ∧
      (4095 ≤ nnn.toNat → ∃ a, step t = .fault (.outOfBounds a)) ∧ unchangedBut [] [] s t) ∧
  (decodesUnder 0xF000 0xB000 (fun w => .jpV0 (nnnField w)) ∧
    ∀ nnn s, ∃ t, exec (.jpV0 nnn) s = .next t ∧ t.pc.toNat = nnn.toNat + (s.reg 0).toNat ∧
      (4095 ≤ nnn.toNat + (s.reg 0).toNat → ∃ a, step t = .fault (.outOfBounds a)) ∧ unchangedBut [] [] s t)

/-- 2NNN: it pushes its own address, or faults with 16 entries in use. The fault's information word is D14's
(log entry 15), and that a 16-bit entry holds the whole pc is log entry 26. -/
def Obligations.CallPushesItsOwnAddress : Prop :=
  decodesUnder 0xF000 0x2000 (fun w => .call (nnnField w)) ∧
  (∀ nnn (s : State), s.sp.val < 16 → ∃ t, exec (.call nnn) s = .next t ∧ t.sp.val = s.sp.val + 1 ∧
    (∀ k : Fin 16, t.stack[k.val] = if k.val = s.sp.val then s.pc else s.stack[k.val]) ∧
    t.pc.toNat = nnn.toNat ∧ unchangedBut [] [.stack, .sp] s t) ∧
  (∀ nnn (s : State), s.sp.val = 16 → exec (.call nnn) s = .fault (.stackOverflow s.pc))

/-- 00EE: pc is the popped value plus 2, and the popped entry keeps its value; an empty stack faults. The fault's
information word is D14's (log entry 15), and the 16-bit entry is log entry 26. -/
def Obligations.ReturnPopsPlusTwo : Prop :=
  decodesUnder 0xFFFF 0x00EE (fun _ => .ret) ∧
  (∀ (s : State) (k : Fin 16), s.sp.val = k.val + 1 → ∃ t, exec .ret s = .next t ∧
    t.pc = s.stack[k.val] + 2 ∧ t.sp.val = k.val ∧ unchangedBut [] [.sp] s t) ∧
  (∀ s : State, s.sp.val = 0 → exec .ret s = .fault (.stackUnderflow s.pc))

/-- A return from a subroutine that leaves the call stack as the call left it resumes at the instruction
after the call, with the stack as deep as before it (the 16-bit entry is log entry 26). -/
def Obligations.ReturnAfterCallResumesAfterIt : Prop :=
  ∀ nnn (s t u : State), exec (.call nnn) s = .next t → u.stack = t.stack → u.sp = t.sp →
    ∃ v, exec .ret u = .next v ∧ v.pc = s.pc + 2 ∧ v.sp = s.sp ∧
      ∀ k : Fin 16, k.val < s.sp.val → v.stack[k.val] = s.stack[k.val]

/-! ### The index register and memory (`43_index_memory.md`) -/

/-- ANNN and FX29: I is the address, or five times the whole register, not masked to a digit (log entry 30). -/
def Obligations.IndexLoads : Prop :=
  (decodesUnder 0xF000 0xA000 (fun w => .ldI (nnnField w)) ∧
    ∀ nnn s, ∃ t, exec (.ldI nnn) s = .next t ∧ t.I.toNat = nnn.toNat ∧ t.pc = s.pc + 2 ∧
      unchangedBut [] [.index] s t) ∧
  (decodesUnder 0xF0FF 0xF029 (fun w => .ldFVx (xField w)) ∧
    ∀ x s, ∃ t, exec (.ldFVx x) s = .next t ∧ t.I.toNat = (s.reg x).toNat * 5 ∧ t.pc = s.pc + 2 ∧
      unchangedBut [] [.index] s t)

/-- FX1E: the flag is of the full sum, and I wraps modulo 2^16. The wrap is the choice of D9 (log entry 11),
and that VF is written last that of D5 (log entry 7). -/
def Obligations.IndexAddFlagsAboveTwelveBits : Prop :=
  decodesUnder 0xF0FF 0xF01E (fun w => .addIVx (xField w)) ∧
  ∀ x s, ∃ t, exec (.addIVx x) s = .next t ∧ t.I.toNat = (s.I.toNat + (s.reg x).toNat) % 65536 ∧
    t.reg vf = (if s.I.toNat + (s.reg x).toNat > 0xFFF then 1 else 0) ∧ t.pc = s.pc + 2 ∧
    unchangedBut [vf] [.index] s t

/-- FX33 where it completes: three decimal digits, hundreds first, that make up `V[x]`, in the three bytes
from I, and no other byte changed. The font bound on I is the choice of D2 (log entry 4). -/
def Obligations.BcdStoresThreeDigits : Prop :=
  decodesUnder 0xF0FF 0xF033 (fun w => .ldBVx (xField w)) ∧
  ∀ x (s : State), 0x050 ≤ s.I.toNat → s.I.toNat + 2 ≤ 4095 → ∃ t, exec (.ldBVx x) s = .next t ∧
    (let d := fun k => (t.mem.read (s.I.toNat + k)).toNat
     d 0 ≤ 2 ∧ d 1 ≤ 9 ∧ d 2 ≤ 9 ∧ 100 * d 0 + 10 * d 1 + d 2 = (s.reg x).toNat) ∧
    sameMemoryOutside s.I.toNat 3 s t ∧ t.pc = s.pc + 2 ∧ unchangedBut [] [.memory] s t

/-- FX55 where it completes: `V[k]` at I + k for k up to x, no other byte changed, and I advanced. The font
bound on I is the choice of D2 (log entry 4). -/
def Obligations.StoreRegistersAtIndex : Prop :=
  decodesUnder 0xF0FF 0xF055 (fun w => .ldMemVx (xField w)) ∧
  ∀ (x : Reg) (s : State), 0x050 ≤ s.I.toNat → s.I.toNat + x.val ≤ 4095 →
    ∃ t, exec (.ldMemVx x) s = .next t ∧
      (∀ k : Reg, k.val ≤ x.val → t.mem.read (s.I.toNat + k.val) = s.reg k) ∧
      sameMemoryOutside s.I.toNat (x.val + 1) s t ∧ t.I.toNat = s.I.toNat + x.val + 1 ∧ t.pc = s.pc + 2 ∧
      unchangedBut [] [.memory, .index] s t

/-- FX33 and FX55 where they fault: a range beyond memory, and a range that reaches the font (the choice of
D2, log entry 4; the information words are D14's, log entry 15). -/
def Obligations.StoresFaultBeyondMemoryAndOnTheFont : Prop :=
  (∀ x (s : State), 4095 < s.I.toNat + 2 → exec (.ldBVx x) s = .fault (.outOfBounds (max s.I.toNat 4096))) ∧
  (∀ (x : Reg) (s : State), 4095 < s.I.toNat + x.val →
    exec (.ldMemVx x) s = .fault (.outOfBounds (max s.I.toNat 4096))) ∧
  (∀ x y (s : State), s.I.toNat < 0x050 →
    exec (.ldBVx x) s = .fault (.fontWrite s.I.toNat) ∧ exec (.ldMemVx y) s = .fault (.fontWrite s.I.toNat))

/-- With `FONT_PROTECT = false` (D2, log entry 4) FX33 and FX55 store into the font like anywhere else. -/
def Obligations.UnprotectedStoresWriteTheFont : Prop :=
  ∀ (c : Config) (x : Reg) (s : State), c.fontProtect = false →
    (s.I.toNat + 2 ≤ 4095 → ∃ t, execWith c (.ldBVx x) s = .next t ∧
      (t.mem.read s.I.toNat).toNat = (s.reg x).toNat / 100 ∧
      (t.mem.read (s.I.toNat + 1)).toNat = (s.reg x).toNat / 10 % 10 ∧
      (t.mem.read (s.I.toNat + 2)).toNat = (s.reg x).toNat % 10 ∧
      sameMemoryOutside s.I.toNat 3 s t ∧ t.pc = s.pc + 2 ∧ unchangedBut [] [.memory] s t) ∧
    (s.I.toNat + x.val ≤ 4095 → ∃ t, execWith c (.ldMemVx x) s = .next t ∧
      (∀ k : Reg, k.val ≤ x.val → t.mem.read (s.I.toNat + k.val) = s.reg k) ∧
      sameMemoryOutside s.I.toNat (x.val + 1) s t ∧ t.I.toNat = s.I.toNat + x.val + 1 ∧ t.pc = s.pc + 2 ∧
      unchangedBut [] [.memory, .index] s t)

/-- FX65: V0 to `V[x]` from I on, I advanced, memory unchanged; a range beyond memory faults. The fault's
information word is D14's (log entry 15). -/
def Obligations.LoadRegistersFromIndex : Prop :=
  decodesUnder 0xF0FF 0xF065 (fun w => .ldVxMem (xField w)) ∧
  (∀ (x : Reg) (s : State), s.I.toNat + x.val ≤ 4095 → ∃ t, exec (.ldVxMem x) s = .next t ∧
    (∀ k : Reg, t.reg k = if k.val ≤ x.val then s.mem.read (s.I.toNat + k.val) else s.reg k) ∧
    t.I.toNat = s.I.toNat + x.val + 1 ∧ t.pc = s.pc + 2 ∧
    unchangedBut ((List.finRange 16).filter fun k => k.val ≤ x.val) [.index] s t) ∧
  (∀ (x : Reg) (s : State), 4095 < s.I.toNat + x.val →
    exec (.ldVxMem x) s = .fault (.outOfBounds (max s.I.toNat 4096)))

/-- What FX55 stores, FX65 loads back, from any state with the memory the store left and the I it started
from. -/
def Obligations.LoadAfterStoreGivesTheRegistersBack : Prop :=
  ∀ (x : Reg) (s t u : State), exec (.ldMemVx x) s = .next t → u.mem = t.mem → u.I = s.I →
    ∃ v, exec (.ldVxMem x) u = .next v ∧ (∀ k : Reg, k.val ≤ x.val → v.reg k = s.reg k) ∧ v.I = t.I

/-- A store is seen by the next fetch (R76): with what FX55 stored as its memory and pc where the store began,
the next step runs the instruction whose two bytes V0 and V1 were. -/
def Obligations.StoredBytesAreTheNextInstruction : Prop :=
  ∀ (x : Reg) (s t u : State) (i : Instr), 1 ≤ x.val → exec (.ldMemVx x) s = .next t → u.mem = t.mem →
    u.pc = s.I → decodeWord (wordOfBytes (s.reg 0) (s.reg 1)) = some i → step u = exec i u

/-! ### The display (`40_display.md`) -/

/-- 00E0 (R120). -/
def Obligations.ClearBlanksEveryPixel : Prop :=
  decodesUnder 0xFFFF 0x00E0 (fun _ => .cls) ∧
  ∀ s, ∃ t, exec .cls s = .next t ∧ (∀ p, p < 2048 → t.fb.pixel p = false) ∧ t.dirty = true ∧
    t.pc = s.pc + 2 ∧ unchangedBut [] [.pixels, .dirty] s t

/-- DXYN: every pixel is XORed with the sprite bit that covers it, wrapping; VF is the collision flag, an OR over
the whole sprite; a sprite beyond memory faults. That N = 0 draws no rows is the choice of D16 (log entry 17);
VF last is D5's (log entry 7), and the fault's information word D14's (log entry 15). -/
def Obligations.DrawXorsTheSpriteWrapping : Prop :=
  decodesUnder 0xF000 0xD000 (fun w => .drw (xField w) (yField w) (nField w)) ∧
  (∀ (x y : Reg) (n : RowCount) (s : State), n.val = 0 ∨ s.I.toNat + n.val - 1 ≤ 4095 →
    ∃ t, exec (.drw x y n) s = .next t ∧
      (∀ p, p < 2048 → t.fb.pixel p =
        (s.fb.pixel p ^^ s.spriteCovers (s.reg x).toNat (s.reg y).toNat n.val p)) ∧
      (s.spriteCollides (s.reg x).toNat (s.reg y).toNat n.val → t.reg vf = 1) ∧
      (¬ s.spriteCollides (s.reg x).toNat (s.reg y).toNat n.val → t.reg vf = 0) ∧
      t.dirty = true ∧ t.pc = s.pc + 2 ∧ unchangedBut [vf] [.pixels, .dirty] s t) ∧
  (∀ (x y : Reg) (n : RowCount) (s : State), n.val ≠ 0 → 4095 < s.I.toNat + n.val - 1 →
    exec (.drw x y n) s = .fault (.outOfBounds (max s.I.toNat 4096)))

/-- Drawing the same sprite twice at the same coordinates restores the framebuffer; on a cleared one the first
draw has flag 0, and the second flag 1 when the sprite has a set bit (R123). The second state is any with
the framebuffer, memory and I the first draw left and the coordinates it used. N = 0 is included (D16, log
entry 17). -/
def Obligations.DrawingTwiceRestoresTheFrame : Prop :=
  ∀ (x y x' y' : Reg) (n : RowCount) (s t u : State), exec (.drw x y n) s = .next t →
    u.fb = t.fb → u.mem = s.mem → u.I = s.I → u.reg x' = s.reg x → u.reg y' = s.reg y →
    ∃ v, exec (.drw x' y' n) u = .next v ∧ v.fb = s.fb ∧
      (s.fb = 0 → t.reg vf = 0 ∧
        ((∃ r b, r < n.val ∧ b < 8 ∧ (s.mem.read (s.I.toNat + r)).getLsbD b = true) → v.reg vf = 1))

/-! ### Keypad and timers (`44_keys_timers.md`) -/

/-- EX9E and EXA1: the skip on the latch, which is not consumed. That an index above 15 faults is the choice
of D8 (log entry 10), and the fault's information word that of D14 (log entry 15). -/
def Obligations.KeySkips : Prop :=
  decodesUnder 0xF0FF 0xE09E (fun w => .skp (xField w)) ∧
  decodesUnder 0xF0FF 0xE0A1 (fun w => .sknp (xField w)) ∧
  (∀ x (s : State) (k : KeyIndex), (s.reg x).toNat = k.val →
    (∃ t, exec (.skp x) s = .next t ∧ t.pc = (if s.key[k.val] = true then s.pc + 4 else s.pc + 2) ∧
      unchangedBut [] [] s t) ∧
    (∃ t, exec (.sknp x) s = .next t ∧ t.pc = (if s.key[k.val] = true then s.pc + 2 else s.pc + 4) ∧
      unchangedBut [] [] s t)) ∧
  (∀ x (s : State), 15 < (s.reg x).toNat →
    exec (.skp x) s = .fault (.keyOutOfBounds (s.reg x)) ∧ exec (.sknp x) s = .fault (.keyOutOfBounds (s.reg x)))

/-- `Waiting` (R262): exactly when the step fetched FX0A and no key is pressed; the state is unchanged, and
the next step waits again. Under every configuration. That a wait answers an unchanged next state is the
model's choice (log entry 25). -/
def Obligations.WaitingIsFx0aWithNoKey : Prop :=
  ∀ (c : Config) (s : State),
    (stepReport c s = .waiting ↔
      ∃ w x, s.fetches w ∧ decodeWord w = some (.ldVxK x) ∧ ∀ k : KeyIndex, s.key[k.val] = false) ∧
    (stepReport c s = .waiting →
      stepWith c s = .next s ∧ hostOp c .step s = (s, .stepped .waiting) ∧
      (hostOp c .step (hostOp c .step s).1).2 = .stepped .waiting)

/-- FX0A on this hardware: the lowest pressed key, its latch left as it is. The lowest is the choice of D6
(log entry 8), the level test and the unchanged latch those of D7 (log entry 9). That the wait answers an
unchanged next state is the model's choice (log entry 25). -/
def Obligations.KeyWaitTakesTheLowestPressed : Prop :=
  decodesUnder 0xF0FF 0xF00A (fun w => .ldVxK (xField w)) ∧
  (∀ x (s : State) (k : KeyIndex), s.key[k.val] = true → (∀ j : KeyIndex, j.val < k.val → s.key[j.val] = false) →
    ∃ t, exec (.ldVxK x) s = .next t ∧ (t.reg x).toNat = k.val ∧ t.pc = s.pc + 2 ∧ unchangedBut [x] [] s t) ∧
  (∀ x (s : State), (∀ k : KeyIndex, s.key[k.val] = false) → exec (.ldVxK x) s = .next s)

/-- FX0A under every `FX0A_SELECT` and `FX0A_CLEARS_LATCH` (D6, D7; log entries 8 and 9): it takes a pressed
key, and clears that latch and no other exactly when configured to. Under `AnyPressed` the key is a draw of the
configuration's, whatever it is. -/
def Obligations.KeyWaitUnderEveryConfiguration : Prop :=
  ∀ (c : Config) (x : Reg) (s : State), (∃ k : KeyIndex, s.key[k.val] = true) →
    ∃ t, ∃ k : KeyIndex, execWith c (.ldVxK x) s = .next t ∧ s.key[k.val] = true ∧ (t.reg x).toNat = k.val ∧
      (c.fx0aSelect = .lowest → ∀ j : KeyIndex, s.key[j.val] = true → k.val ≤ j.val) ∧
      (∀ j : KeyIndex, t.key[j.val] = if j = k ∧ c.fx0aClearsLatch = true then false else s.key[j.val]) ∧
      t.pc = s.pc + 2 ∧ unchangedBut [x] [.keys, .keyDraws] s t

/-- FX07, FX15 and FX18 (R232, R237, R238): FX18 leaves `beep` as it is, and the next tick reports a beep
exactly when the written value is 1. -/
def Obligations.TimerReadsAndWrites : Prop :=
  (decodesUnder 0xF0FF 0xF007 (fun w => .ldVxDt (xField w)) ∧
    ∀ x s, ∃ t, exec (.ldVxDt x) s = .next t ∧ t.reg x = s.DT ∧ t.pc = s.pc + 2 ∧ unchangedBut [x] [] s t) ∧
  (decodesUnder 0xF0FF 0xF015 (fun w => .ldDtVx (xField w)) ∧
    ∀ x s, ∃ t, exec (.ldDtVx x) s = .next t ∧ t.DT = s.reg x ∧ t.pc = s.pc + 2 ∧ unchangedBut [] [.delay] s t) ∧
  (decodesUnder 0xF0FF 0xF018 (fun w => .ldStVx (xField w)) ∧
    ∀ x s, ∃ t, exec (.ldStVx x) s = .next t ∧ t.ST = s.reg x ∧ t.pc = s.pc + 2 ∧
      ((tickTimers t).beep = true ↔ s.reg x = 1) ∧ unchangedBut [] [.sound] s t)

/-! ### Rules of the whole machine -/

/-- The state after reset under `RESET_POLICY = Zero`: pc and the font are the source's, the zeros are the
choice of D10 (log entry 1) and the font's bytes, written out from R44's table, that of D18 (log entry 19). The
host's reset gives that state from any state, and leaves only the model's own counts of draws (log entry 34). -/
def Obligations.ResetValues : Prop :=
  let s := State.reset
  let font : List Byte :=
    [0xF0, 0x90, 0x90, 0x90, 0xF0, 0x20, 0x60, 0x20, 0x20, 0x70] ++ [0xF0, 0x10, 0xF0, 0x80, 0xF0, 0xF0, 0x10, 0xF0, 0x10, 0xF0] ++
    [0x90, 0x90, 0xF0, 0x10, 0x10, 0xF0, 0x80, 0xF0, 0x10, 0xF0] ++ [0xF0, 0x80, 0xF0, 0x90, 0xF0, 0xF0, 0x10, 0x20, 0x40, 0x40] ++
    [0xF0, 0x90, 0xF0, 0x90, 0xF0, 0xF0, 0x90, 0xF0, 0x10, 0xF0] ++ [0xF0, 0x90, 0xF0, 0x90, 0x90, 0xE0, 0x90, 0xE0, 0x90, 0xE0] ++
    [0xF0, 0x80, 0x80, 0x80, 0xF0, 0xE0, 0x90, 0x90, 0x90, 0xE0] ++ [0xF0, 0x80, 0xF0, 0x80, 0xF0, 0xF0, 0x80, 0xF0, 0x80, 0x80]
  s.pc.toNat = 0x200 ∧ font.length = 0x050 ∧ (∀ a (h : a < font.length), s.mem.read a = font[a]) ∧
  (∀ a, 0x050 ≤ a → s.mem.read a = 0) ∧ (∀ r, s.reg r = 0) ∧ s.I = 0 ∧ s.sp.val = 0 ∧
  (∀ k : Fin 16, s.stack[k.val] = 0) ∧ s.DT = 0 ∧ s.ST = 0 ∧ s.beep = false ∧
  (∀ p, s.fb.pixel p = false) ∧ s.dirty = false ∧ (∀ k : KeyIndex, s.key[k.val] = false) ∧
  (∀ powerUp, resetFrom Config.hardware powerUp = s) ∧
  ∀ powerUp before, hostOp Config.hardware (.reset powerUp) before =
    ({ s with draws := before.draws, keyDraws := before.keyDraws }, .ok)

/-- Under `RESET_POLICY = Unspecified` reset sets pc and the font, under any font of 80 bytes (D18). That the rest
keeps its power-up value, whatever that is, is the model's own choice (log entry 2): D10 gives it no value and
has a read of it fault. -/
def Obligations.UnspecifiedResetSetsOnlyPcAndFont : Prop :=
  ∀ (c : Config) (s : State), c.resetPolicy = .unspecified → c.wellFormed = true →
    ∃ t, resetFrom c s = t ∧ t.pc.toNat = 0x200 ∧ t.fontIntact c.font ∧ sameMemoryOutside 0 80 s t ∧
      unchangedBut [] [.memory] s t

/-- The invariant holds at reset. The stack entries are the zeros of D10 (log entry 1) and the font's bytes those
of D18 (log entry 19). -/
def Obligations.InvariantHoldsAtReset : Prop := State.reset.Inv

/-- Every step keeps the invariant: memory's canonical form, the font's bytes, pc at most 0x10FE, and every
stack entry an address a call can stand at. -/
def Obligations.StepKeepsTheInvariant : Prop := ∀ s t : State, s.Inv → step s = .next t → t.Inv

/-- Every operation of the host keeps the invariant, reset and `load` among them, so every state of every run
from reset has it. At reset the stack entries are the zeros of D10 (log entry 1) and the font's bytes those of
D18 (log entry 19); that no step changes the font is the choice of D2 (log entry 4). -/
def Obligations.EveryReachableStateHasTheInvariant : Prop :=
  (∀ (op : HostOp) (s : State), s.Inv → (hostOp Config.hardware op s).1.Inv) ∧
  ∀ ops : List HostOp, (Run.applyAll Config.hardware ops ⟨State.reset, none⟩).core.Inv

/-- No instruction writes a byte of the font range, from any state (R69, R71; the choice of D2). -/
def Obligations.NoInstructionWritesTheFont : Prop :=
  ∀ (i : Instr) (s t : State) (a : Nat), exec i s = .next t → a < 0x050 → t.mem.read a = s.mem.read a

/-- Which instructions write each general register and each part of the state (R21, R24, R37, R40 to R42, R61;
the flag writers of R29): an instruction that changes one is one of those named. No instruction changes `beep`
or, with this hardware's choices of D6 and D7 (log entries 8 and 9), a key latch or the count of keys drawn. -/
def Obligations.WritersOfEachPart : Prop :=
  ∀ (i : Instr) (s t : State), exec i s = .next t →
    (∀ r : Reg, t.reg r ≠ s.reg r →
      (∃ nn, i = .ldImm r nn ∨ i = .addImm r nn ∨ i = .rnd r nn) ∨
      (∃ y, i = .ldReg r y ∨ i = .orReg r y ∨ i = .andReg r y ∨ i = .xorReg r y ∨ i = .addReg r y ∨
        i = .subReg r y ∨ i = .shr r y ∨ i = .subn r y ∨ i = .shl r y) ∨
      i = .ldVxDt r ∨ i = .ldVxK r ∨ (∃ x : Reg, i = .ldVxMem x ∧ r.val ≤ x.val) ∨
      (r = vf ∧ ((∃ x y, i = .addReg x y ∨ i = .subReg x y ∨ i = .shr x y ∨ i = .subn x y ∨ i = .shl x y) ∨
        (∃ x, i = .addIVx x) ∨ ∃ x y n, i = .drw x y n))) ∧
    (¬ Part.same s t .index → (∃ a, i = .ldI a) ∨ (∃ x, i = .addIVx x) ∨ (∃ x, i = .ldFVx x) ∨
      (∃ x, i = .ldMemVx x) ∨ (∃ x, i = .ldVxMem x)) ∧
    (¬ Part.same s t .stack → ∃ a, i = .call a) ∧
    (¬ Part.same s t .sp → (∃ a, i = .call a) ∨ i = .ret) ∧
    (¬ Part.same s t .delay → ∃ x, i = .ldDtVx x) ∧
    (¬ Part.same s t .sound → ∃ x, i = .ldStVx x) ∧
    Part.same s t .beep ∧
    (¬ Part.same s t .pixels → (i = .cls ∨ ∃ x y n, i = .drw x y n) ∧ t.dirty = true) ∧
    (¬ Part.same s t .dirty → (i = .cls ∨ ∃ x y n, i = .drw x y n) ∧ t.dirty = true) ∧
    ((i = .cls ∨ ∃ x y n, i = .drw x y n) → t.dirty = true) ∧
    Part.same s t .keys ∧
    (¬ Part.same s t .memory → (∃ x, i = .ldBVx x) ∨ ∃ x, i = .ldMemVx x) ∧
    (¬ Part.same s t .draws → ∃ x nn, i = .rnd x nn) ∧
    Part.same s t .keyDraws

/-- The pc after an instruction (R26): the target after a jump or a call, the popped entry plus 2 after a return,
pc + 4 or pc + 2 after a skip as its condition holds or not, pc itself and no change at all after FX0A with no
key, and pc + 2 after it with one and after every other instruction. BNNN without a mask is log entry 29, no next
state on a key index above 15 log entry 10, and a wait as a next state log entry 25. -/
def Obligations.PcAfterAnInstruction : Prop :=
  ∀ (i : Instr) (s t : State), exec i s = .next t →
    (∀ a, i = .jp a ∨ i = .call a → t.pc.toNat = a.toNat) ∧
    (∀ a, i = .jpV0 a → t.pc.toNat = a.toNat + (s.reg 0).toNat) ∧
    (i = .ret → ∃ k : Fin 16, s.sp.val = k.val + 1 ∧ t.pc = s.stack[k.val] + 2) ∧
    (∀ x nn, (i = .seImm x nn → t.pc = if s.reg x = nn then s.pc + 4 else s.pc + 2) ∧
      (i = .sneImm x nn → t.pc = if s.reg x = nn then s.pc + 2 else s.pc + 4)) ∧
    (∀ x y, (i = .seReg x y → t.pc = if s.reg x = s.reg y then s.pc + 4 else s.pc + 2) ∧
      (i = .sneReg x y → t.pc = if s.reg x = s.reg y then s.pc + 2 else s.pc + 4)) ∧
    (∀ x, (i = .skp x → ∃ k : KeyIndex, k.val = (s.reg x).toNat ∧
        t.pc = if s.key[k.val] = true then s.pc + 4 else s.pc + 2) ∧
      (i = .sknp x → ∃ k : KeyIndex, k.val = (s.reg x).toNat ∧
        t.pc = if s.key[k.val] = true then s.pc + 2 else s.pc + 4)) ∧
    (∀ x, i = .ldVxK x → (∀ k : KeyIndex, s.key[k.val] = false) → t = s) ∧
    (∀ x, i = .ldVxK x → (∃ k : KeyIndex, s.key[k.val] = true) → t.pc = s.pc + 2) ∧
    ((∀ a, i ≠ .jp a ∧ i ≠ .call a ∧ i ≠ .jpV0 a) → i ≠ .ret → (∀ x nn, i ≠ .seImm x nn ∧ i ≠ .sneImm x nn) →
      (∀ x y, i ≠ .seReg x y ∧ i ≠ .sneReg x y) → (∀ x, i ≠ .skp x ∧ i ≠ .sknp x ∧ i ≠ .ldVxK x) →
      t.pc = s.pc + 2)

/-- Who raises which fault, and when (R267; the faults 5 and 6 are the choices of D8 and D2): an instruction
raises only the faults its rule lists, under the condition its rule gives. -/
def Obligations.FaultsAreRaisedOnlyWhereListed : Prop :=
  ∀ (i : Instr) (s : State) (f : Fault), exec i s = .fault f →
    (∃ n, f = .outOfBounds (max s.I.toNat 4096) ∧ 4096 < s.I.toNat + n ∧
      ((∃ x y, ∃ m : RowCount, i = .drw x y m ∧ n = m.val) ∨ (∃ x, i = .ldBVx x ∧ n = 3) ∨
        (∃ x : Reg, (i = .ldMemVx x ∨ i = .ldVxMem x) ∧ n = x.val + 1))) ∨
    (f = .stackOverflow s.pc ∧ s.sp.val = 16 ∧ ∃ a, i = .call a) ∨
    (f = .stackUnderflow s.pc ∧ s.sp.val = 0 ∧ i = .ret) ∨
    (∃ x, f = .keyOutOfBounds (s.reg x) ∧ 15 < (s.reg x).toNat ∧ (i = .skp x ∨ i = .sknp x)) ∨
    (f = .fontWrite s.I.toNat ∧ s.I.toNat < 0x050 ∧ ∃ x, i = .ldBVx x ∨ i = .ldMemVx x)

/-- A fault leaves the core as it was, and every later step of the run faults alike until the host loads or
resets, whatever else it does (R263, R264; the choice of D13). -/
def Obligations.FaultRepeatsUntilLoadOrReset : Prop :=
  ∀ (c : Config) (s : State) (f : Fault) (ops : List HostOp), stepReport c s = .fault f →
    (∀ op ∈ ops, (∀ rom, op ≠ .load rom) ∧ ∀ powerUp, op ≠ .reset powerUp) →
    (hostOp c .step s).1 = s ∧
    stepReport c (Run.applyAll c ops ⟨s, none⟩).core = .fault f ∧
    (Run.applyAll c (.step :: ops) ⟨s, none⟩).firstFault = some f

/-- A run's record of its first fault is never cleared (R264; the choice of D13). -/
def Obligations.FirstFaultIsNeverCleared : Prop :=
  ∀ (c : Config) (ops : List HostOp) (r : Run) (f : Fault), r.firstFault = some f →
    (Run.applyAll c ops r).firstFault = some f

/-- A program cannot observe ST, the beep latch or the dirty flag (R48): from two states that differ only
there, a step ends alike, in states that differ only there. -/
def Obligations.ProgramCannotSeeHostOnlyState : Prop :=
  ∀ (s s' : State), sameToTheProgram s s' → endAlike sameToTheProgram (step s) (step s')

/-- A program cannot observe the stack entries not in use (R35): from two states that differ only there, a
step ends alike, in states that differ only there. -/
def Obligations.ProgramCannotSeeUnusedStackEntries : Prop :=
  ∀ (s s' : State), sameBelowSp s s' → endAlike sameBelowSp (step s) (step s')

/-- At a self-loop every step is `Progressed` and changes nothing (R287; the choice of D13), under every
configuration. -/
def Obligations.SelfLoopChangesNothing : Prop :=
  ∀ (c : Config) (s : State), s.selfLoop = true →
    step s = .next s ∧ stepReport c s = .progressed s none ∧ hostOp c .step s = (s, .stepped (.progressed s none))

/-! ### The host's operations (`60_exceptions.md`, `20_memory.md`) -/

/-- `tick_timers()` (R270): each timer falls by 1 unless it is 0, `beep` is whether ST was 1, and nothing else
changes; a tick never faults. -/
def Obligations.TickDecrementsAndLatchesBeep : Prop :=
  ∀ (c : Config) (s : State), ∃ t, hostOp c .tickTimers s = (t, .ok) ∧
    t.DT.toNat = s.DT.toNat - 1 ∧ t.ST.toNat = s.ST.toNat - 1 ∧ (t.beep = true ↔ s.ST.toNat = 1) ∧
    t.pc = s.pc ∧ unchangedBut [] [.delay, .sound, .beep] s t

/-- `beepPending()` (R271): after the m-th tick it is true exactly when ST was m before the ticks, so it is
true once, at the transition from 1 to 0; before the first tick it is false; it changes nothing. -/
def Obligations.BeepIsOnePulse : Prop :=
  (∀ (s : State) (m : Nat), beepPending (tickTimers^[m + 1] s) = true ↔ s.ST.toNat = m + 1) ∧
  beepPending State.reset = false ∧
  (∀ (c : Config) (s : State), hostOp c .beepPending s = (s, .beep (beepPending s)))

/-- `load`: the ROM's bytes from 0x200 on and nothing else, or `ProgramTooLarge` and no change (R79, R80; that
it touches nothing else is the choice of D21, log entry 22, and the fault's information word, the length, that
of D14, log entry 15). -/
def Obligations.LoadCopiesTheProgram : Prop :=
  ∀ (c : Config) (rom : List Byte) (s : State),
    (rom.length ≤ 3584 → ∃ t, hostOp c (.load rom) s = (t, .ok) ∧
      (∀ i (h : i < rom.length), t.mem.read (0x200 + i) = rom[i]) ∧ sameMemoryOutside 0x200 rom.length s t ∧
      t.pc = s.pc ∧ unchangedBut [] [.memory] s t) ∧
    (3584 < rom.length → hostOp c (.load rom) s = (s, .failed (.programTooLarge rom.length)))

/-- `press(k)` and `release(k)` (R279; that an index above 15 fails is the choice of D22, log entry 23, and
the fault's information word, the index, that of D14, log entry 15). -/
def Obligations.PressAndReleaseWriteOneLatch : Prop :=
  ∀ (c : Config) (s : State) (k : Nat) (down : Bool),
    let op := if down then HostOp.press k else HostOp.release k
    (k < 16 → ∃ t, hostOp c op s = (t, .ok) ∧
      (∀ j : KeyIndex, t.key[j.val] = if j.val = k then down else s.key[j.val]) ∧
      t.pc = s.pc ∧ unchangedBut [] [.keys] s t) ∧
    (16 ≤ k → hostOp c op s = (s, .failed (.keyIndexOutOfRange k)))

/-- The framebuffer device (R278): reading gives the pixels and `dirty` and changes nothing; clearing clears
`dirty` and changes nothing else. -/
def Obligations.HostReadsAndClearsTheFrame : Prop :=
  ∀ (c : Config) (s : State),
    hostOp c .readFramebuffer s = (s, .frame s.fb s.dirty) ∧
    ∃ t, hostOp c .clearDirty s = (t, .ok) ∧ t.dirty = false ∧ t.pc = s.pc ∧ unchangedBut [] [.dirty] s t
end

