-- ==== Sys2Proof/Laws/State.lean ====
section
/-! SUPPORT. What each update of the state leaves in each field: one lemma per field per update, true by `rfl`,
so that no proof unfolds a record update. And what `reg` and `isPressed` read after each. -/

namespace Sys2Proof.Machine

open Sys2Proof

namespace State

variable (s : State)

/-! ### `setReg` -/

@[simp] theorem setReg_mem (x : Reg) (v : Byte) : (s.setReg x v).mem = s.mem := rfl
@[simp] theorem setReg_V (x : Reg) (v : Byte) : (s.setReg x v).V = s.V.set x.val v := rfl
@[simp] theorem setReg_I (x : Reg) (v : Byte) : (s.setReg x v).I = s.I := rfl
@[simp] theorem setReg_pc (x : Reg) (v : Byte) : (s.setReg x v).pc = s.pc := rfl
@[simp] theorem setReg_stack (x : Reg) (v : Byte) : (s.setReg x v).stack = s.stack := rfl
@[simp] theorem setReg_sp (x : Reg) (v : Byte) : (s.setReg x v).sp = s.sp := rfl
@[simp] theorem setReg_DT (x : Reg) (v : Byte) : (s.setReg x v).DT = s.DT := rfl
@[simp] theorem setReg_ST (x : Reg) (v : Byte) : (s.setReg x v).ST = s.ST := rfl
@[simp] theorem setReg_beep (x : Reg) (v : Byte) : (s.setReg x v).beep = s.beep := rfl
@[simp] theorem setReg_fb (x : Reg) (v : Byte) : (s.setReg x v).fb = s.fb := rfl
@[simp] theorem setReg_dirty (x : Reg) (v : Byte) : (s.setReg x v).dirty = s.dirty := rfl
@[simp] theorem setReg_key (x : Reg) (v : Byte) : (s.setReg x v).key = s.key := rfl
@[simp] theorem setReg_draws (x : Reg) (v : Byte) : (s.setReg x v).draws = s.draws := rfl
@[simp] theorem setReg_keyDraws (x : Reg) (v : Byte) : (s.setReg x v).keyDraws = s.keyDraws := rfl
@[simp] theorem isPressed_setReg (x : Reg) (v : Byte) (j : KeyIndex) : (s.setReg x v).isPressed j = s.isPressed j := rfl
@[simp] theorem ea_setReg (x : Reg) (v : Byte) (j : Nat) : (s.setReg x v).ea j = s.ea j := rfl

/-! ### `setFlag` -/

@[simp] theorem setFlag_mem (f : Bool) : (s.setFlag f).mem = s.mem := rfl
@[simp] theorem setFlag_I (f : Bool) : (s.setFlag f).I = s.I := rfl
@[simp] theorem setFlag_pc (f : Bool) : (s.setFlag f).pc = s.pc := rfl
@[simp] theorem setFlag_stack (f : Bool) : (s.setFlag f).stack = s.stack := rfl
@[simp] theorem setFlag_sp (f : Bool) : (s.setFlag f).sp = s.sp := rfl
@[simp] theorem setFlag_DT (f : Bool) : (s.setFlag f).DT = s.DT := rfl
@[simp] theorem setFlag_ST (f : Bool) : (s.setFlag f).ST = s.ST := rfl
@[simp] theorem setFlag_beep (f : Bool) : (s.setFlag f).beep = s.beep := rfl
@[simp] theorem setFlag_fb (f : Bool) : (s.setFlag f).fb = s.fb := rfl
@[simp] theorem setFlag_dirty (f : Bool) : (s.setFlag f).dirty = s.dirty := rfl
@[simp] theorem setFlag_key (f : Bool) : (s.setFlag f).key = s.key := rfl
@[simp] theorem setFlag_draws (f : Bool) : (s.setFlag f).draws = s.draws := rfl
@[simp] theorem setFlag_keyDraws (f : Bool) : (s.setFlag f).keyDraws = s.keyDraws := rfl
@[simp] theorem isPressed_setFlag (f : Bool) (j : KeyIndex) : (s.setFlag f).isPressed j = s.isPressed j := rfl
@[simp] theorem ea_setFlag (f : Bool) (j : Nat) : (s.setFlag f).ea j = s.ea j := rfl

/-! ### `setResultFlag` -/

@[simp] theorem setResultFlag_mem (x : Reg) (r : Byte × Bool) : (s.setResultFlag x r).mem = s.mem := rfl
@[simp] theorem setResultFlag_I (x : Reg) (r : Byte × Bool) : (s.setResultFlag x r).I = s.I := rfl
@[simp] theorem setResultFlag_pc (x : Reg) (r : Byte × Bool) : (s.setResultFlag x r).pc = s.pc := rfl
@[simp] theorem setResultFlag_stack (x : Reg) (r : Byte × Bool) : (s.setResultFlag x r).stack = s.stack := rfl
@[simp] theorem setResultFlag_sp (x : Reg) (r : Byte × Bool) : (s.setResultFlag x r).sp = s.sp := rfl
@[simp] theorem setResultFlag_DT (x : Reg) (r : Byte × Bool) : (s.setResultFlag x r).DT = s.DT := rfl
@[simp] theorem setResultFlag_ST (x : Reg) (r : Byte × Bool) : (s.setResultFlag x r).ST = s.ST := rfl
@[simp] theorem setResultFlag_beep (x : Reg) (r : Byte × Bool) : (s.setResultFlag x r).beep = s.beep := rfl
@[simp] theorem setResultFlag_fb (x : Reg) (r : Byte × Bool) : (s.setResultFlag x r).fb = s.fb := rfl
@[simp] theorem setResultFlag_dirty (x : Reg) (r : Byte × Bool) : (s.setResultFlag x r).dirty = s.dirty := rfl
@[simp] theorem setResultFlag_key (x : Reg) (r : Byte × Bool) : (s.setResultFlag x r).key = s.key := rfl
@[simp] theorem setResultFlag_draws (x : Reg) (r : Byte × Bool) : (s.setResultFlag x r).draws = s.draws := rfl
@[simp] theorem setResultFlag_keyDraws (x : Reg) (r : Byte × Bool) : (s.setResultFlag x r).keyDraws = s.keyDraws := rfl
@[simp] theorem isPressed_setResultFlag (x : Reg) (r : Byte × Bool) (j : KeyIndex) : (s.setResultFlag x r).isPressed j = s.isPressed j := rfl
@[simp] theorem ea_setResultFlag (x : Reg) (r : Byte × Bool) (j : Nat) : (s.setResultFlag x r).ea j = s.ea j := rfl

/-! ### `setI` -/

@[simp] theorem setI_mem (v : Word) : (s.setI v).mem = s.mem := rfl
@[simp] theorem setI_V (v : Word) : (s.setI v).V = s.V := rfl
@[simp] theorem setI_I (v : Word) : (s.setI v).I = v := rfl
@[simp] theorem setI_pc (v : Word) : (s.setI v).pc = s.pc := rfl
@[simp] theorem setI_stack (v : Word) : (s.setI v).stack = s.stack := rfl
@[simp] theorem setI_sp (v : Word) : (s.setI v).sp = s.sp := rfl
@[simp] theorem setI_DT (v : Word) : (s.setI v).DT = s.DT := rfl
@[simp] theorem setI_ST (v : Word) : (s.setI v).ST = s.ST := rfl
@[simp] theorem setI_beep (v : Word) : (s.setI v).beep = s.beep := rfl
@[simp] theorem setI_fb (v : Word) : (s.setI v).fb = s.fb := rfl
@[simp] theorem setI_dirty (v : Word) : (s.setI v).dirty = s.dirty := rfl
@[simp] theorem setI_key (v : Word) : (s.setI v).key = s.key := rfl
@[simp] theorem setI_draws (v : Word) : (s.setI v).draws = s.draws := rfl
@[simp] theorem setI_keyDraws (v : Word) : (s.setI v).keyDraws = s.keyDraws := rfl
@[simp] theorem reg_setI (v : Word) (r : Reg) : (s.setI v).reg r = s.reg r := rfl
@[simp] theorem isPressed_setI (v : Word) (j : KeyIndex) : (s.setI v).isPressed j = s.isPressed j := rfl

/-! ### `setPc` -/

@[simp] theorem setPc_mem (t : Word) : (s.setPc t).mem = s.mem := rfl
@[simp] theorem setPc_V (t : Word) : (s.setPc t).V = s.V := rfl
@[simp] theorem setPc_I (t : Word) : (s.setPc t).I = s.I := rfl
@[simp] theorem setPc_pc (t : Word) : (s.setPc t).pc = t := rfl
@[simp] theorem setPc_stack (t : Word) : (s.setPc t).stack = s.stack := rfl
@[simp] theorem setPc_sp (t : Word) : (s.setPc t).sp = s.sp := rfl
@[simp] theorem setPc_DT (t : Word) : (s.setPc t).DT = s.DT := rfl
@[simp] theorem setPc_ST (t : Word) : (s.setPc t).ST = s.ST := rfl
@[simp] theorem setPc_beep (t : Word) : (s.setPc t).beep = s.beep := rfl
@[simp] theorem setPc_fb (t : Word) : (s.setPc t).fb = s.fb := rfl
@[simp] theorem setPc_dirty (t : Word) : (s.setPc t).dirty = s.dirty := rfl
@[simp] theorem setPc_key (t : Word) : (s.setPc t).key = s.key := rfl
@[simp] theorem setPc_draws (t : Word) : (s.setPc t).draws = s.draws := rfl
@[simp] theorem setPc_keyDraws (t : Word) : (s.setPc t).keyDraws = s.keyDraws := rfl
@[simp] theorem reg_setPc (t : Word) (r : Reg) : (s.setPc t).reg r = s.reg r := rfl
@[simp] theorem isPressed_setPc (t : Word) (j : KeyIndex) : (s.setPc t).isPressed j = s.isPressed j := rfl
@[simp] theorem ea_setPc (t : Word) (j : Nat) : (s.setPc t).ea j = s.ea j := rfl

/-! ### `advance` -/

@[simp] theorem advance_mem (n : Word) : (s.advance n).mem = s.mem := rfl
@[simp] theorem advance_V (n : Word) : (s.advance n).V = s.V := rfl
@[simp] theorem advance_I (n : Word) : (s.advance n).I = s.I := rfl
@[simp] theorem advance_pc (n : Word) : (s.advance n).pc = s.pc + n := rfl
@[simp] theorem advance_stack (n : Word) : (s.advance n).stack = s.stack := rfl
@[simp] theorem advance_sp (n : Word) : (s.advance n).sp = s.sp := rfl
@[simp] theorem advance_DT (n : Word) : (s.advance n).DT = s.DT := rfl
@[simp] theorem advance_ST (n : Word) : (s.advance n).ST = s.ST := rfl
@[simp] theorem advance_beep (n : Word) : (s.advance n).beep = s.beep := rfl
@[simp] theorem advance_fb (n : Word) : (s.advance n).fb = s.fb := rfl
@[simp] theorem advance_dirty (n : Word) : (s.advance n).dirty = s.dirty := rfl
@[simp] theorem advance_key (n : Word) : (s.advance n).key = s.key := rfl
@[simp] theorem advance_draws (n : Word) : (s.advance n).draws = s.draws := rfl
@[simp] theorem advance_keyDraws (n : Word) : (s.advance n).keyDraws = s.keyDraws := rfl
@[simp] theorem reg_advance (n : Word) (r : Reg) : (s.advance n).reg r = s.reg r := rfl
@[simp] theorem isPressed_advance (n : Word) (j : KeyIndex) : (s.advance n).isPressed j = s.isPressed j := rfl
@[simp] theorem ea_advance (n : Word) (j : Nat) : (s.advance n).ea j = s.ea j := rfl

/-! ### `done` -/

@[simp] theorem done_mem : s.done.mem = s.mem := rfl
@[simp] theorem done_V : s.done.V = s.V := rfl
@[simp] theorem done_I : s.done.I = s.I := rfl
@[simp] theorem done_pc : s.done.pc = s.pc + 2 := rfl
@[simp] theorem done_stack : s.done.stack = s.stack := rfl
@[simp] theorem done_sp : s.done.sp = s.sp := rfl
@[simp] theorem done_DT : s.done.DT = s.DT := rfl
@[simp] theorem done_ST : s.done.ST = s.ST := rfl
@[simp] theorem done_beep : s.done.beep = s.beep := rfl
@[simp] theorem done_fb : s.done.fb = s.fb := rfl
@[simp] theorem done_dirty : s.done.dirty = s.dirty := rfl
@[simp] theorem done_key : s.done.key = s.key := rfl
@[simp] theorem done_draws : s.done.draws = s.draws := rfl
@[simp] theorem done_keyDraws : s.done.keyDraws = s.keyDraws := rfl
@[simp] theorem reg_done (r : Reg) : s.done.reg r = s.reg r := rfl
@[simp] theorem isPressed_done (j : KeyIndex) : s.done.isPressed j = s.isPressed j := rfl
@[simp] theorem ea_done (j : Nat) : s.done.ea j = s.ea j := rfl

/-! ### `skipIf` -/

@[simp] theorem skipIf_mem (b : Bool) : (s.skipIf b).mem = s.mem := rfl
@[simp] theorem skipIf_V (b : Bool) : (s.skipIf b).V = s.V := rfl
@[simp] theorem skipIf_I (b : Bool) : (s.skipIf b).I = s.I := rfl
@[simp] theorem skipIf_pc (b : Bool) : (s.skipIf b).pc = s.pc + (if b then 4 else 2) := rfl
@[simp] theorem skipIf_stack (b : Bool) : (s.skipIf b).stack = s.stack := rfl
@[simp] theorem skipIf_sp (b : Bool) : (s.skipIf b).sp = s.sp := rfl
@[simp] theorem skipIf_DT (b : Bool) : (s.skipIf b).DT = s.DT := rfl
@[simp] theorem skipIf_ST (b : Bool) : (s.skipIf b).ST = s.ST := rfl
@[simp] theorem skipIf_beep (b : Bool) : (s.skipIf b).beep = s.beep := rfl
@[simp] theorem skipIf_fb (b : Bool) : (s.skipIf b).fb = s.fb := rfl
@[simp] theorem skipIf_dirty (b : Bool) : (s.skipIf b).dirty = s.dirty := rfl
@[simp] theorem skipIf_key (b : Bool) : (s.skipIf b).key = s.key := rfl
@[simp] theorem skipIf_draws (b : Bool) : (s.skipIf b).draws = s.draws := rfl
@[simp] theorem skipIf_keyDraws (b : Bool) : (s.skipIf b).keyDraws = s.keyDraws := rfl
@[simp] theorem reg_skipIf (b : Bool) (r : Reg) : (s.skipIf b).reg r = s.reg r := rfl
@[simp] theorem isPressed_skipIf (b : Bool) (j : KeyIndex) : (s.skipIf b).isPressed j = s.isPressed j := rfl

/-! ### `setDT` -/

@[simp] theorem setDT_mem (v : Byte) : (s.setDT v).mem = s.mem := rfl
@[simp] theorem setDT_V (v : Byte) : (s.setDT v).V = s.V := rfl
@[simp] theorem setDT_I (v : Byte) : (s.setDT v).I = s.I := rfl
@[simp] theorem setDT_pc (v : Byte) : (s.setDT v).pc = s.pc := rfl
@[simp] theorem setDT_stack (v : Byte) : (s.setDT v).stack = s.stack := rfl
@[simp] theorem setDT_sp (v : Byte) : (s.setDT v).sp = s.sp := rfl
@[simp] theorem setDT_DT (v : Byte) : (s.setDT v).DT = v := rfl
@[simp] theorem setDT_ST (v : Byte) : (s.setDT v).ST = s.ST := rfl
@[simp] theorem setDT_beep (v : Byte) : (s.setDT v).beep = s.beep := rfl
@[simp] theorem setDT_fb (v : Byte) : (s.setDT v).fb = s.fb := rfl
@[simp] theorem setDT_dirty (v : Byte) : (s.setDT v).dirty = s.dirty := rfl
@[simp] theorem setDT_key (v : Byte) : (s.setDT v).key = s.key := rfl
@[simp] theorem setDT_draws (v : Byte) : (s.setDT v).draws = s.draws := rfl
@[simp] theorem setDT_keyDraws (v : Byte) : (s.setDT v).keyDraws = s.keyDraws := rfl
@[simp] theorem reg_setDT (v : Byte) (r : Reg) : (s.setDT v).reg r = s.reg r := rfl
@[simp] theorem isPressed_setDT (v : Byte) (j : KeyIndex) : (s.setDT v).isPressed j = s.isPressed j := rfl
@[simp] theorem ea_setDT (v : Byte) (j : Nat) : (s.setDT v).ea j = s.ea j := rfl

/-! ### `setST` -/

@[simp] theorem setST_mem (v : Byte) : (s.setST v).mem = s.mem := rfl
@[simp] theorem setST_V (v : Byte) : (s.setST v).V = s.V := rfl
@[simp] theorem setST_I (v : Byte) : (s.setST v).I = s.I := rfl
@[simp] theorem setST_pc (v : Byte) : (s.setST v).pc = s.pc := rfl
@[simp] theorem setST_stack (v : Byte) : (s.setST v).stack = s.stack := rfl
@[simp] theorem setST_sp (v : Byte) : (s.setST v).sp = s.sp := rfl
@[simp] theorem setST_DT (v : Byte) : (s.setST v).DT = s.DT := rfl
@[simp] theorem setST_ST (v : Byte) : (s.setST v).ST = v := rfl
@[simp] theorem setST_beep (v : Byte) : (s.setST v).beep = s.beep := rfl
@[simp] theorem setST_fb (v : Byte) : (s.setST v).fb = s.fb := rfl
@[simp] theorem setST_dirty (v : Byte) : (s.setST v).dirty = s.dirty := rfl
@[simp] theorem setST_key (v : Byte) : (s.setST v).key = s.key := rfl
@[simp] theorem setST_draws (v : Byte) : (s.setST v).draws = s.draws := rfl
@[simp] theorem setST_keyDraws (v : Byte) : (s.setST v).keyDraws = s.keyDraws := rfl
@[simp] theorem reg_setST (v : Byte) (r : Reg) : (s.setST v).reg r = s.reg r := rfl
@[simp] theorem isPressed_setST (v : Byte) (j : KeyIndex) : (s.setST v).isPressed j = s.isPressed j := rfl
@[simp] theorem ea_setST (v : Byte) (j : Nat) : (s.setST v).ea j = s.ea j := rfl

/-! ### `setKey` -/

@[simp] theorem setKey_mem (k : KeyIndex) (b : Bool) : (s.setKey k b).mem = s.mem := rfl
@[simp] theorem setKey_V (k : KeyIndex) (b : Bool) : (s.setKey k b).V = s.V := rfl
@[simp] theorem setKey_I (k : KeyIndex) (b : Bool) : (s.setKey k b).I = s.I := rfl
@[simp] theorem setKey_pc (k : KeyIndex) (b : Bool) : (s.setKey k b).pc = s.pc := rfl
@[simp] theorem setKey_stack (k : KeyIndex) (b : Bool) : (s.setKey k b).stack = s.stack := rfl
@[simp] theorem setKey_sp (k : KeyIndex) (b : Bool) : (s.setKey k b).sp = s.sp := rfl
@[simp] theorem setKey_DT (k : KeyIndex) (b : Bool) : (s.setKey k b).DT = s.DT := rfl
@[simp] theorem setKey_ST (k : KeyIndex) (b : Bool) : (s.setKey k b).ST = s.ST := rfl
@[simp] theorem setKey_beep (k : KeyIndex) (b : Bool) : (s.setKey k b).beep = s.beep := rfl
@[simp] theorem setKey_fb (k : KeyIndex) (b : Bool) : (s.setKey k b).fb = s.fb := rfl
@[simp] theorem setKey_dirty (k : KeyIndex) (b : Bool) : (s.setKey k b).dirty = s.dirty := rfl
@[simp] theorem setKey_key (k : KeyIndex) (b : Bool) : (s.setKey k b).key = s.key.set k.val b := rfl
@[simp] theorem setKey_draws (k : KeyIndex) (b : Bool) : (s.setKey k b).draws = s.draws := rfl
@[simp] theorem setKey_keyDraws (k : KeyIndex) (b : Bool) : (s.setKey k b).keyDraws = s.keyDraws := rfl
@[simp] theorem reg_setKey (k : KeyIndex) (b : Bool) (r : Reg) : (s.setKey k b).reg r = s.reg r := rfl
@[simp] theorem ea_setKey (k : KeyIndex) (b : Bool) (j : Nat) : (s.setKey k b).ea j = s.ea j := rfl

/-! ### `setMem` -/

@[simp] theorem setMem_mem (m : Memory) : (s.setMem m).mem = m := rfl
@[simp] theorem setMem_V (m : Memory) : (s.setMem m).V = s.V := rfl
@[simp] theorem setMem_I (m : Memory) : (s.setMem m).I = s.I := rfl
@[simp] theorem setMem_pc (m : Memory) : (s.setMem m).pc = s.pc := rfl
@[simp] theorem setMem_stack (m : Memory) : (s.setMem m).stack = s.stack := rfl
@[simp] theorem setMem_sp (m : Memory) : (s.setMem m).sp = s.sp := rfl
@[simp] theorem setMem_DT (m : Memory) : (s.setMem m).DT = s.DT := rfl
@[simp] theorem setMem_ST (m : Memory) : (s.setMem m).ST = s.ST := rfl
@[simp] theorem setMem_beep (m : Memory) : (s.setMem m).beep = s.beep := rfl
@[simp] theorem setMem_fb (m : Memory) : (s.setMem m).fb = s.fb := rfl
@[simp] theorem setMem_dirty (m : Memory) : (s.setMem m).dirty = s.dirty := rfl
@[simp] theorem setMem_key (m : Memory) : (s.setMem m).key = s.key := rfl
@[simp] theorem setMem_draws (m : Memory) : (s.setMem m).draws = s.draws := rfl
@[simp] theorem setMem_keyDraws (m : Memory) : (s.setMem m).keyDraws = s.keyDraws := rfl
@[simp] theorem reg_setMem (m : Memory) (r : Reg) : (s.setMem m).reg r = s.reg r := rfl
@[simp] theorem isPressed_setMem (m : Memory) (j : KeyIndex) : (s.setMem m).isPressed j = s.isPressed j := rfl
@[simp] theorem ea_setMem (m : Memory) (j : Nat) : (s.setMem m).ea j = s.ea j := rfl

/-! ### `setFrame` -/

@[simp] theorem setFrame_mem (fb : Framebuffer) : (s.setFrame fb).mem = s.mem := rfl
@[simp] theorem setFrame_V (fb : Framebuffer) : (s.setFrame fb).V = s.V := rfl
@[simp] theorem setFrame_I (fb : Framebuffer) : (s.setFrame fb).I = s.I := rfl
@[simp] theorem setFrame_pc (fb : Framebuffer) : (s.setFrame fb).pc = s.pc := rfl
@[simp] theorem setFrame_stack (fb : Framebuffer) : (s.setFrame fb).stack = s.stack := rfl
@[simp] theorem setFrame_sp (fb : Framebuffer) : (s.setFrame fb).sp = s.sp := rfl
@[simp] theorem setFrame_DT (fb : Framebuffer) : (s.setFrame fb).DT = s.DT := rfl
@[simp] theorem setFrame_ST (fb : Framebuffer) : (s.setFrame fb).ST = s.ST := rfl
@[simp] theorem setFrame_beep (fb : Framebuffer) : (s.setFrame fb).beep = s.beep := rfl
@[simp] theorem setFrame_fb (fb : Framebuffer) : (s.setFrame fb).fb = fb := rfl
@[simp] theorem setFrame_dirty (fb : Framebuffer) : (s.setFrame fb).dirty = true := rfl
@[simp] theorem setFrame_key (fb : Framebuffer) : (s.setFrame fb).key = s.key := rfl
@[simp] theorem setFrame_draws (fb : Framebuffer) : (s.setFrame fb).draws = s.draws := rfl
@[simp] theorem setFrame_keyDraws (fb : Framebuffer) : (s.setFrame fb).keyDraws = s.keyDraws := rfl
@[simp] theorem reg_setFrame (fb : Framebuffer) (r : Reg) : (s.setFrame fb).reg r = s.reg r := rfl
@[simp] theorem isPressed_setFrame (fb : Framebuffer) (j : KeyIndex) : (s.setFrame fb).isPressed j = s.isPressed j := rfl
@[simp] theorem ea_setFrame (fb : Framebuffer) (j : Nat) : (s.setFrame fb).ea j = s.ea j := rfl

/-! ### `drawn` -/

@[simp] theorem drawn_mem : s.drawn.mem = s.mem := rfl
@[simp] theorem drawn_V : s.drawn.V = s.V := rfl
@[simp] theorem drawn_I : s.drawn.I = s.I := rfl
@[simp] theorem drawn_pc : s.drawn.pc = s.pc := rfl
@[simp] theorem drawn_stack : s.drawn.stack = s.stack := rfl
@[simp] theorem drawn_sp : s.drawn.sp = s.sp := rfl
@[simp] theorem drawn_DT : s.drawn.DT = s.DT := rfl
@[simp] theorem drawn_ST : s.drawn.ST = s.ST := rfl
@[simp] theorem drawn_beep : s.drawn.beep = s.beep := rfl
@[simp] theorem drawn_fb : s.drawn.fb = s.fb := rfl
@[simp] theorem drawn_dirty : s.drawn.dirty = s.dirty := rfl
@[simp] theorem drawn_key : s.drawn.key = s.key := rfl
@[simp] theorem drawn_draws : s.drawn.draws = s.draws + 1 := rfl
@[simp] theorem drawn_keyDraws : s.drawn.keyDraws = s.keyDraws := rfl
@[simp] theorem reg_drawn (r : Reg) : s.drawn.reg r = s.reg r := rfl
@[simp] theorem isPressed_drawn (j : KeyIndex) : s.drawn.isPressed j = s.isPressed j := rfl
@[simp] theorem ea_drawn (j : Nat) : s.drawn.ea j = s.ea j := rfl

/-! ### `keyDrawn` -/

@[simp] theorem keyDrawn_mem : s.keyDrawn.mem = s.mem := rfl
@[simp] theorem keyDrawn_V : s.keyDrawn.V = s.V := rfl
@[simp] theorem keyDrawn_I : s.keyDrawn.I = s.I := rfl
@[simp] theorem keyDrawn_pc : s.keyDrawn.pc = s.pc := rfl
@[simp] theorem keyDrawn_stack : s.keyDrawn.stack = s.stack := rfl
@[simp] theorem keyDrawn_sp : s.keyDrawn.sp = s.sp := rfl
@[simp] theorem keyDrawn_DT : s.keyDrawn.DT = s.DT := rfl
@[simp] theorem keyDrawn_ST : s.keyDrawn.ST = s.ST := rfl
@[simp] theorem keyDrawn_beep : s.keyDrawn.beep = s.beep := rfl
@[simp] theorem keyDrawn_fb : s.keyDrawn.fb = s.fb := rfl
@[simp] theorem keyDrawn_dirty : s.keyDrawn.dirty = s.dirty := rfl
@[simp] theorem keyDrawn_key : s.keyDrawn.key = s.key := rfl
@[simp] theorem keyDrawn_draws : s.keyDrawn.draws = s.draws := rfl
@[simp] theorem keyDrawn_keyDraws : s.keyDrawn.keyDraws = s.keyDraws + 1 := rfl
@[simp] theorem reg_keyDrawn (r : Reg) : s.keyDrawn.reg r = s.reg r := rfl
@[simp] theorem isPressed_keyDrawn (j : KeyIndex) : s.keyDrawn.isPressed j = s.isPressed j := rfl
@[simp] theorem ea_keyDrawn (j : Nat) : s.keyDrawn.ea j = s.ea j := rfl

/-! ### `bumpI` -/

@[simp] theorem bumpI_mem (x : Reg) : (s.bumpI x).mem = s.mem := rfl
@[simp] theorem bumpI_V (x : Reg) : (s.bumpI x).V = s.V := rfl
@[simp] theorem bumpI_I (x : Reg) : (s.bumpI x).I = s.I + BitVec.ofNat 16 (x.val + 1) := rfl
@[simp] theorem bumpI_pc (x : Reg) : (s.bumpI x).pc = s.pc := rfl
@[simp] theorem bumpI_stack (x : Reg) : (s.bumpI x).stack = s.stack := rfl
@[simp] theorem bumpI_sp (x : Reg) : (s.bumpI x).sp = s.sp := rfl
@[simp] theorem bumpI_DT (x : Reg) : (s.bumpI x).DT = s.DT := rfl
@[simp] theorem bumpI_ST (x : Reg) : (s.bumpI x).ST = s.ST := rfl
@[simp] theorem bumpI_beep (x : Reg) : (s.bumpI x).beep = s.beep := rfl
@[simp] theorem bumpI_fb (x : Reg) : (s.bumpI x).fb = s.fb := rfl
@[simp] theorem bumpI_dirty (x : Reg) : (s.bumpI x).dirty = s.dirty := rfl
@[simp] theorem bumpI_key (x : Reg) : (s.bumpI x).key = s.key := rfl
@[simp] theorem bumpI_draws (x : Reg) : (s.bumpI x).draws = s.draws := rfl
@[simp] theorem bumpI_keyDraws (x : Reg) : (s.bumpI x).keyDraws = s.keyDraws := rfl
@[simp] theorem reg_bumpI (x : Reg) (r : Reg) : (s.bumpI x).reg r = s.reg r := rfl
@[simp] theorem isPressed_bumpI (x : Reg) (j : KeyIndex) : (s.bumpI x).isPressed j = s.isPressed j := rfl

/-! ### `loadRegs` -/

@[simp] theorem loadRegs_mem (x : Reg) : (s.loadRegs x).mem = s.mem := rfl
@[simp] theorem loadRegs_I (x : Reg) : (s.loadRegs x).I = s.I := rfl
@[simp] theorem loadRegs_pc (x : Reg) : (s.loadRegs x).pc = s.pc := rfl
@[simp] theorem loadRegs_stack (x : Reg) : (s.loadRegs x).stack = s.stack := rfl
@[simp] theorem loadRegs_sp (x : Reg) : (s.loadRegs x).sp = s.sp := rfl
@[simp] theorem loadRegs_DT (x : Reg) : (s.loadRegs x).DT = s.DT := rfl
@[simp] theorem loadRegs_ST (x : Reg) : (s.loadRegs x).ST = s.ST := rfl
@[simp] theorem loadRegs_beep (x : Reg) : (s.loadRegs x).beep = s.beep := rfl
@[simp] theorem loadRegs_fb (x : Reg) : (s.loadRegs x).fb = s.fb := rfl
@[simp] theorem loadRegs_dirty (x : Reg) : (s.loadRegs x).dirty = s.dirty := rfl
@[simp] theorem loadRegs_key (x : Reg) : (s.loadRegs x).key = s.key := rfl
@[simp] theorem loadRegs_draws (x : Reg) : (s.loadRegs x).draws = s.draws := rfl
@[simp] theorem loadRegs_keyDraws (x : Reg) : (s.loadRegs x).keyDraws = s.keyDraws := rfl
@[simp] theorem isPressed_loadRegs (x : Reg) (j : KeyIndex) : (s.loadRegs x).isPressed j = s.isPressed j := rfl
@[simp] theorem ea_loadRegs (x : Reg) (j : Nat) : (s.loadRegs x).ea j = s.ea j := rfl

/-! ### Reading back a register or a latch that was written -/

@[simp] theorem reg_setReg_same (x : Reg) (v : Byte) : (s.setReg x v).reg x = v := by
  simp [reg, setReg]

theorem reg_setReg (x : Reg) (v : Byte) (r : Reg) : (s.setReg x v).reg r = if r = x then v else s.reg r := by
  simp [reg, setReg, Vector.getElem_set, Fin.ext_iff, eq_comm]

@[simp] theorem reg_setReg_of_ne {x r : Reg} (v : Byte) (h : r ≠ x) : (s.setReg x v).reg r = s.reg r := by
  simp [reg_setReg, h]

@[simp] theorem reg_setFlag_vf (f : Bool) : (s.setFlag f).reg vf = if f then 1 else 0 := by
  simp [setFlag]

@[simp] theorem reg_setFlag_of_ne {r : Reg} (f : Bool) (h : r ≠ vf) : (s.setFlag f).reg r = s.reg r := by
  simp [setFlag, h]

@[simp] theorem reg_setResultFlag_vf (x : Reg) (p : Byte × Bool) :
    (s.setResultFlag x p).reg vf = if p.2 then 1 else 0 := by
  simp [setResultFlag]

@[simp] theorem reg_setResultFlag_same {x : Reg} (p : Byte × Bool) (h : x ≠ vf) :
    (s.setResultFlag x p).reg x = p.1 := by
  simp [setResultFlag, h]

@[simp] theorem reg_setResultFlag_of_ne {x r : Reg} (p : Byte × Bool) (hx : r ≠ x) (hf : r ≠ vf) :
    (s.setResultFlag x p).reg r = s.reg r := by
  simp [setResultFlag, hx, hf]

/-- A register that an update changes is one it writes. -/
theorem eq_of_reg_setReg_ne {x r : Reg} {v : Byte} (h : (s.setReg x v).reg r ≠ s.reg r) : r = x :=
  Decidable.byContradiction fun hx => h (reg_setReg_of_ne s v hx)

theorem eq_vf_of_reg_setFlag_ne {r : Reg} {f : Bool} (h : (s.setFlag f).reg r ≠ s.reg r) : r = vf :=
  Decidable.byContradiction fun hf => h (reg_setFlag_of_ne s f hf)

theorem eq_of_reg_setResultFlag_ne {x r : Reg} {p : Byte × Bool} (h : (s.setResultFlag x p).reg r ≠ s.reg r) :
    r = x ∨ r = vf :=
  Decidable.byContradiction fun hn =>
    h (reg_setResultFlag_of_ne s p (fun hx => hn (.inl hx)) fun hf => hn (.inr hf))

theorem reg_loadRegs (x r : Reg) :
    (s.loadRegs x).reg r = if r.val ≤ x.val then s.mem.read (s.ea r.val) else s.reg r := by
  simp [reg, loadRegs]

theorem isPressed_setKey (k j : KeyIndex) (b : Bool) :
    (s.setKey k b).isPressed j = if j = k then b else s.isPressed j := by
  simp [isPressed, setKey, Vector.getElem_set, Fin.ext_iff, eq_comm]

/-- Setting pc to what it is changes nothing: the self-loop of `60_exceptions.md` R287. -/
@[simp] theorem setPc_self : s.setPc s.pc = s := rfl

end State

/-- Two states with the same registers, one by one, have the same register file. -/
theorem State.V_ext {s t : State} (h : ∀ r, t.reg r = s.reg r) : t.V = s.V := by
  apply Vector.ext
  intro k hk
  exact h ⟨k, hk⟩

end Sys2Proof.Machine
end

