-- ==== Sys2Proof/Laws/Ops.lean ====
section
/-! SUPPORT. One lemma per shared operation: everything it can answer, guards included. -/

namespace Sys2Proof.Machine

open Sys2Proof

/-! ### The checks that raise -/

/-- The bound: the rest of the instruction, or `OutOfBounds`. -/
theorem guardRange_cases (start len : Nat) (body : Outcome) :
    ((len = 0 ∨ start + len ≤ 4096) ∧ guardRange start len body = body) ∨
    ((len ≠ 0 ∧ 4096 < start + len) ∧ guardRange start len body = .fault (.outOfBounds (max start 4096))) := by
  by_cases h : len = 0 ∨ start + len ≤ 4096
  · exact .inl ⟨h, if_pos h⟩
  · exact .inr ⟨by omega, if_neg h⟩

theorem guardRange_of_le {start len : Nat} (body : Outcome) (h : len = 0 ∨ start + len ≤ 4096) :
    guardRange start len body = body := if_pos h

theorem guardRange_of_lt {start len : Nat} (body : Outcome) (h : len ≠ 0 ∧ 4096 < start + len) :
    guardRange start len body = .fault (.outOfBounds (max start 4096)) :=
  if_neg (show ¬(len = 0 ∨ start + len ≤ memSize) by simp only [memSize]; omega)

/-- The font rule: the rest of the instruction, or `FontWrite`. -/
theorem guardFont_cases (c : Config) (start : Nat) (body : Outcome) :
    (¬(c.fontProtect = true ∧ start < 0x050) ∧ guardFont c start body = body) ∨
    ((c.fontProtect = true ∧ start < 0x050) ∧ guardFont c start body = .fault (.fontWrite start)) := by
  by_cases h : c.fontProtect = true ∧ start < 0x050
  · exact .inr ⟨h, if_pos h⟩
  · exact .inl ⟨h, if_neg h⟩

theorem guardFont_of_le {start : Nat} (c : Config) (body : Outcome) (h : 0x050 ≤ start) :
    guardFont c start body = body :=
  if_neg (show ¬(c.fontProtect = true ∧ start < fontEnd) by simp only [fontEnd]; omega)

theorem guardFont_of_unprotected {c : Config} (start : Nat) (body : Outcome) (h : c.fontProtect = false) :
    guardFont c start body = body := if_neg (by simp [h])

@[simp] theorem hardware_fontProtect : Config.hardware.fontProtect = true := rfl
@[simp] theorem hardware_unknownOpcode : Config.hardware.unknownOpcode = .halt := rfl
@[simp] theorem hardware_shiftSrc : Config.hardware.shiftSrc = .vx := rfl
@[simp] theorem hardware_fx0aSelect : Config.hardware.fx0aSelect = .lowest := rfl
@[simp] theorem hardware_fx0aClearsLatch : Config.hardware.fx0aClearsLatch = false := rfl
@[simp] theorem hardware_resetPolicy : Config.hardware.resetPolicy = .zero := rfl
@[simp] theorem hardware_font : Config.hardware.font = standardFont := rfl
@[simp] theorem hardware_rand : Config.hardware.rand = Config.randByte := rfl

/-- The key index: the rest of the instruction with it, or `KeyOutOfBounds`. -/
theorem withKey_cases (v : Byte) (body : KeyIndex → Outcome) :
    (∃ k : KeyIndex, v.toNat = k.val ∧ withKey v body = body k) ∨
    (15 < v.toNat ∧ withKey v body = .fault (.keyOutOfBounds v)) := by
  by_cases h : v.toNat < 16
  · exact .inl ⟨⟨v.toNat, h⟩, rfl, dif_pos h⟩
  · exact .inr ⟨by omega, dif_neg h⟩

theorem withKey_of_eq {v : Byte} {k : KeyIndex} (body : KeyIndex → Outcome) (h : v.toNat = k.val) :
    withKey v body = body k := by
  have hk : (⟨v.toNat, h ▸ k.isLt⟩ : KeyIndex) = k := Fin.ext h
  rw [withKey, dif_pos (h ▸ k.isLt), hk]

/-! ### The call stack -/

/-- A push: the value at the old `sp`, `sp` up by one and nothing else changed, or `StackOverflow`. -/
theorem push_cases (s : State) (v : Word) (body : State → Outcome) :
    (∃ (h : s.sp.val < 16) (p : Fin 17), p.val = s.sp.val + 1 ∧
      push s v body = body { s with stack := s.stack.set s.sp.val v, sp := p }) ∨
    (s.sp.val = 16 ∧ push s v body = .fault (.stackOverflow s.pc)) := by
  by_cases h : s.sp.val < 16
  · exact .inl ⟨h, ⟨s.sp.val + 1, by omega⟩, rfl, dif_pos h⟩
  · exact .inr ⟨by omega, dif_neg h⟩

/-- A pop: the entry below `sp`, `sp` down by one and nothing else changed, or `StackUnderflow`. -/
theorem pop_cases (s : State) (body : Word → State → Outcome) :
    (∃ (k : Fin 16) (p : Fin 17), s.sp.val = k.val + 1 ∧ p.val = k.val ∧
      pop s body = body s.stack[k.val] { s with sp := p }) ∨
    (s.sp.val = 0 ∧ pop s body = .fault (.stackUnderflow s.pc)) := by
  by_cases h : 0 < s.sp.val
  · exact .inl ⟨⟨s.sp.val - 1, by omega⟩, ⟨s.sp.val - 1, by omega⟩, by simp; omega, rfl, dif_pos h⟩
  · exact .inr ⟨by omega, dif_neg h⟩

/-! ### Bytes at I -/

@[simp] theorem length_bytesAtI (s : State) (len : Nat) : (s.bytesAtI len).length = len := by
  simp [State.bytesAtI]

@[simp] theorem getElem_bytesAtI (s : State) (len k : Nat) (h : k < (s.bytesAtI len).length) :
    (s.bytesAtI len)[k] = s.mem.read (s.I.toNat + k) := by
  simp [State.bytesAtI, State.ea]

@[simp] theorem length_regsUpTo (s : State) (x : Reg) : (s.regsUpTo x).length = x.val + 1 := by
  simp [State.regsUpTo]

theorem getElem_regsUpTo (s : State) (x k : Reg) (h : k.val < (s.regsUpTo x).length) :
    (s.regsUpTo x)[k.val] = s.reg k := by
  simp [State.regsUpTo, State.reg]

@[simp] theorem length_bcdDigits (v : Byte) : (bcdDigits v).length = 3 := rfl

/-! ### The keys -/

theorem mem_pressedKeys (s : State) (k : KeyIndex) : k ∈ s.pressedKeys ↔ s.key[k.val] = true := by
  simp [State.pressedKeys, State.isPressed]

theorem pressedKeys_eq_nil (s : State) : s.pressedKeys = [] ↔ ∀ k : KeyIndex, s.key[k.val] = false := by
  simp [State.pressedKeys, State.isPressed, List.filter_eq_nil_iff]

/-- The head of the pressed keys is the lowest of them. -/
theorem pressedKeys_head_le {s : State} {k : KeyIndex} {ks : List KeyIndex} (h : s.pressedKeys = k :: ks)
    (j : KeyIndex) (hj : s.key[j.val] = true) : k.val ≤ j.val := by
  have hs : (k :: ks).Pairwise (· ≤ ·) := by
    rw [← h]
    exact ((List.pairwise_lt_finRange 16).imp le_of_lt).filter _
  have hm : j ∈ k :: ks := h ▸ (mem_pressedKeys s j).mpr hj
  rcases List.mem_cons.mp hm with rfl | hm
  · exact le_rfl
  · exact (List.pairwise_cons.mp hs).1 j hm

/-- On this hardware FX0A takes the lowest pressed key, and neither draws nor clears a latch. -/
@[simp] theorem chooseKey_hardware (k : KeyIndex) (s : State) : chooseKey Config.hardware k s = k := rfl
@[simp] theorem afterChoice_hardware (s : State) : afterChoice Config.hardware s = s := rfl
@[simp] theorem afterTaking_hardware (k : KeyIndex) (s : State) : afterTaking Config.hardware k s = s := rfl

/-! ### Fetch and step -/

/-- A fetch that succeeds, and the word it gives. -/
theorem fetchWord_eq_ok (s : State) (w : Word) : fetchWord s = .ok w ↔
    s.pc.toNat + 1 < 4096 ∧ w = wordOfBytes (s.mem.read s.pc.toNat) (s.mem.read (s.pc.toNat + 1)) := by
  unfold fetchWord
  split
  · simp_all [eq_comm]
  · simp_all

/-- A step: the fetch faults, or the word is unrecognised, or its instruction runs. -/
theorem stepVia_cases (c : Config) (run : Instr → State → Outcome) (s : State) :
    (4095 ≤ s.pc.toNat ∧ stepVia c run s = .fault (.outOfBounds (max s.pc.toNat 4096))) ∨
    (s.pc.toNat + 1 < 4096 ∧ ∃ w, fetchWord s = .ok w ∧
      ((decodeWord w = none ∧ stepVia c run s = unknownWord c w s) ∨
        ∃ i, decodeWord w = some i ∧ stepVia c run s = run i s)) := by
  by_cases h : s.pc.toNat + 1 < 4096
  · refine .inr ⟨h, _, if_pos h, ?_⟩
    cases hd : decodeWord (wordOfBytes (s.mem.read s.pc.toNat) (s.mem.read (s.pc.toNat + 1))) with
    | none => exact .inl ⟨rfl, by simp only [stepVia, fetchWord, memSize, if_pos h, hd]⟩
    | some i => exact .inr ⟨i, rfl, by simp only [stepVia, fetchWord, memSize, if_pos h, hd]⟩
  · exact .inl ⟨by omega, by simp only [stepVia, fetchWord, memSize, if_neg h, raise]⟩

end Sys2Proof.Machine
end

