-- ==== Sys2Proof/Laws/Configured.lean ====
section
/-! SUPPORT. `exec` and `step` are the configured machine at this hardware's configuration, and reset under it
is `State.reset` (log entry 32). -/

namespace Sys2Proof.Machine

open Sys2Proof

theorem execWith_hardware (i : Instr) (s : State) : execWith Config.hardware i s = exec i s := by
  cases i <;> rfl

theorem stepWith_hardware (s : State) : stepWith Config.hardware s = step s := by
  rw [stepWith, step, show execWith Config.hardware = exec from funext fun i => funext (execWith_hardware i)]

/-- The standard font written over reset memory lists nothing: unlisted bytes already read as the font. -/
theorem writeBytes_standardFont : Memory.writeBytes [] 0 standardFont = [] := by decide +kernel

theorem resetFrom_hardware (powerUp : State) : resetFrom Config.hardware powerUp = State.reset := by
  simp [resetFrom, writeBytes_standardFont, State.reset]

end Sys2Proof.Machine
end

