-- ==== Sys2Proof/Laws/Decode.lean ====
section
/-! SUPPORT. The fields of a word as numbers, what masking a word by a row's mask leaves, and that every
`Instr` is well formed. -/

namespace Sys2Proof

/-! ### Fields -/

theorem word_lt (w : Word) : w.toNat < 65536 := w.isLt
theorem byte_lt (v : Byte) : v.toNat < 256 := v.isLt
theorem addr12_lt (a : Addr12) : a.toNat < 4096 := a.isLt

theorem opField_eq (w : Word) : opField w = w.toNat / 4096 := by
  have := word_lt w
  simp [opField, bits]; omega

theorem xField_val (w : Word) : (xField w).val = w.toNat / 256 % 16 := by
  simp [xField, bits, Fin.ofNat]

theorem yField_val (w : Word) : (yField w).val = w.toNat / 16 % 16 := by
  simp [yField, bits, Fin.ofNat]

theorem nField_val (w : Word) : (nField w).val = w.toNat % 16 := by
  simp [nField, bits, Fin.ofNat]

theorem nnField_toNat (w : Word) : (nnField w).toNat = w.toNat % 256 := by
  simp [nnField, bits]

theorem nnnField_toNat (w : Word) : (nnnField w).toNat = w.toNat % 4096 := by
  simp [nnnField, bits]

theorem bits_7_0 (w : Word) : bits w 7 0 = w.toNat % 256 := by simp [bits]

theorem toNat_wordOfBytes (hi lo : Byte) : (wordOfBytes hi lo).toNat = hi.toNat * 256 + lo.toNat := by
  have := lo.isLt
  simp only [wordOfBytes, BitVec.toNat_append]
  rw [← Nat.shiftLeft_add_eq_or_of_lt this, Nat.shiftLeft_eq]

/-- A word's two bytes make it again (R63). -/
@[simp] theorem wordOfBytes_highByte_lowByte (w : Word) : wordOfBytes (highByte w) (lowByte w) = w := by
  have := word_lt w
  apply BitVec.eq_of_toNat_eq
  rw [toNat_wordOfBytes]
  simp [highByte, lowByte, bits]; omega

/-! ### Masks -/

/-- AND splits at a power of two. -/
theorem and_two_pow_split {k b d : Nat} (a c : Nat) (hb : b < 2 ^ k) (hd : d < 2 ^ k) :
    (2 ^ k * a + b) &&& (2 ^ k * c + d) = 2 ^ k * (a &&& c) + (b &&& d) := by
  have hbd : b &&& d < 2 ^ k := Nat.and_lt_two_pow _ hd
  apply Nat.eq_of_testBit_eq
  intro j
  rw [Nat.testBit_and, Nat.testBit_two_pow_mul_add _ hb, Nat.testBit_two_pow_mul_add _ hd,
    Nat.testBit_two_pow_mul_add _ hbd]
  split <;> simp

theorem toNat_and_F000 (w : Word) : (w &&& 0xF000).toNat = 4096 * (w.toNat / 4096) := by
  have h := and_two_pow_split (k := 12) (w.toNat / 4096) 15 (Nat.mod_lt w.toNat (by decide)) (d := 0) (by decide)
  have hw : 2 ^ 12 * (w.toNat / 4096) + w.toNat % 2 ^ 12 = w.toNat := by omega
  rw [hw] at h
  have h15 : w.toNat / 4096 &&& 15 = w.toNat / 4096 := by
    have := word_lt w
    rw [show (15 : Nat) = 2 ^ 4 - 1 from rfl, Nat.and_two_pow_sub_one_eq_mod]; omega
  rw [BitVec.toNat_and]
  simpa [h15] using h

theorem toNat_and_low (w : Word) (k : Nat) (hk : k ≤ 12) :
    (w.toNat &&& (2 ^ 12 * 15 + (2 ^ k - 1))) = 4096 * (w.toNat / 4096) + w.toNat % 2 ^ k := by
  have hlt : 2 ^ k - 1 < 2 ^ 12 := by
    have := Nat.pow_le_pow_right (n := 2) (by decide) hk
    have := Nat.two_pow_pos k
    omega
  have h := and_two_pow_split (k := 12) (w.toNat / 4096) 15 (Nat.mod_lt w.toNat (by decide)) hlt
  have hw : 2 ^ 12 * (w.toNat / 4096) + w.toNat % 2 ^ 12 = w.toNat := by omega
  rw [hw] at h
  have h15 : w.toNat / 4096 &&& 15 = w.toNat / 4096 := by
    have := word_lt w
    rw [show (15 : Nat) = 2 ^ 4 - 1 from rfl, Nat.and_two_pow_sub_one_eq_mod]; omega
  rw [h, h15, Nat.and_two_pow_sub_one_eq_mod, Nat.mod_mod_of_dvd _ (Nat.pow_dvd_pow 2 hk)]
  rfl

theorem toNat_and_F00F (w : Word) : (w &&& 0xF00F).toNat = 4096 * (w.toNat / 4096) + w.toNat % 16 := by
  simpa [BitVec.toNat_and] using toNat_and_low w 4 (by decide)

theorem toNat_and_F0FF (w : Word) : (w &&& 0xF0FF).toNat = 4096 * (w.toNat / 4096) + w.toNat % 256 := by
  simpa [BitVec.toNat_and] using toNat_and_low w 8 (by decide)

theorem toNat_and_FFFF (w : Word) : (w &&& 0xFFFF).toNat = w.toNat := by
  have := word_lt w
  rw [BitVec.toNat_and]
  rw [show (0xFFFF : Word).toNat = 2 ^ 16 - 1 from rfl, Nat.and_two_pow_sub_one_eq_mod]; omega

/-! ### Matching a row: what its mask asks of the word's number -/

theorem and_beq_of_toNat {w m p : Word} (h : (w &&& m).toNat = p.toNat) : ((w &&& m) == p) = true := by
  simpa using BitVec.eq_of_toNat_eq h

theorem matches_F000 {w p : Word} (h : 4096 * (w.toNat / 4096) = p.toNat) : ((w &&& 0xF000) == p) = true :=
  and_beq_of_toNat (by rw [toNat_and_F000, h])

theorem matches_F00F {w p : Word} (h : 4096 * (w.toNat / 4096) + w.toNat % 16 = p.toNat) :
    ((w &&& 0xF00F) == p) = true := and_beq_of_toNat (by rw [toNat_and_F00F, h])

theorem matches_F0FF {w p : Word} (h : 4096 * (w.toNat / 4096) + w.toNat % 256 = p.toNat) :
    ((w &&& 0xF0FF) == p) = true := and_beq_of_toNat (by rw [toNat_and_F0FF, h])

/-! ### Well-formedness -/

/-- Every instruction is well formed: the types of its operands are the widths of R91. -/
theorem Instr.wellFormed_all (i : Instr) : i.wellFormed = true := by
  cases i <;> simp [wellFormed, operandNumbers, OperandNumbers.wellFormed, byte_lt, addr12_lt]

end Sys2Proof
end

