-- ==== Sys2Proof/Laws/Draw.lean ====
section
/-! SUPPORT. What drawing a sprite does to the framebuffer (`40_display.md` R121 to R123): the pixels its set
bits land on are all different, each is flipped once, and the flag says whether one of them was lit. -/

namespace Sys2Proof.Machine

open Sys2Proof

theorem Framebuffer.pixel_flip (fb : Framebuffer) {p : Nat} (hp : p < 2048) (q : Nat) :
    (Framebuffer.flip fb p).pixel q = (fb.pixel q ^^ decide (p = q)) := by
  by_cases h : p = q
  · subst h; simp [pixel, flip, hp]
  · simp [pixel, flip, BitVec.getLsbD_twoPow, h]

/-- Framebuffers with the same 2048 pixels are equal. -/
theorem Framebuffer.ext_pixel {f g : Framebuffer} (h : ∀ p, p < 2048 → f.pixel p = g.pixel p) : f = g :=
  BitVec.eq_of_getLsbD_eq fun p hp => h p hp

theorem pixelIndex_lt (xs ys r b : Nat) : pixelIndex xs ys r b < 2048 := by
  simp only [pixelIndex]; omega

/-- The pixels the set bits of one row land on. -/
def rowPixels (xs ys r : Nat) (row : Byte) : List Nat :=
  ((List.range 8).filter (spriteBit row)).map (pixelIndex xs ys r)

/-- The pixels the set bits of the rows from row `r` on land on. -/
def spritePixels (xs ys : Nat) : Nat → List Byte → List Nat
  | _, [] => []
  | r, row :: rest => rowPixels xs ys r row ++ spritePixels xs ys (r + 1) rest

theorem drawRow_eq_foldl (xs ys r : Nat) (row : Byte) (c : Framebuffer × Bool) :
    drawRow xs ys r row c = (rowPixels xs ys r row).foldl (fun c p => plot p c) c := by
  simp [drawRow, rowPixels, List.foldl_map, List.foldl_filter]

theorem drawRows_eq_foldl (xs ys r : Nat) (rows : List Byte) (c : Framebuffer × Bool) :
    drawRows xs ys r rows c = (spritePixels xs ys r rows).foldl (fun c p => plot p c) c := by
  induction rows generalizing r c with
  | nil => rfl
  | cons row rest ih => simp [drawRows, spritePixels, drawRow_eq_foldl, ih, List.foldl_append]

/-- Different pixels plotted one after another: each is flipped, and the flag is whether one was lit. -/
theorem foldl_plot {ps : List Nat} (hn : ps.Nodup) (hb : ∀ p ∈ ps, p < 2048) (c : Framebuffer × Bool) :
    (∀ q, (ps.foldl (fun c p => plot p c) c).1.pixel q = (c.1.pixel q ^^ decide (q ∈ ps))) ∧
    (ps.foldl (fun c p => plot p c) c).2 = (c.2 || ps.any c.1.pixel) := by
  induction ps generalizing c with
  | nil => simp
  | cons p rest ih =>
    obtain ⟨hp, hrest⟩ := List.nodup_cons.mp hn
    have hpb : p < 2048 := hb p List.mem_cons_self
    obtain ⟨h1, h2⟩ := ih hrest (fun q hq => hb q (List.mem_cons_of_mem _ hq)) (plot p c)
    refine ⟨fun q => ?_, ?_⟩
    · rw [List.foldl_cons, h1]
      by_cases hq : q = p
      · subst hq; simp [plot, Framebuffer.pixel_flip _ hpb, hp]
      · simp [plot, Framebuffer.pixel_flip _ hpb, hq, Ne.symm hq]
    · rw [List.foldl_cons, h2]
      have hany : rest.any (c.1.flip p).pixel = rest.any c.1.pixel := by
        rw [Bool.eq_iff_iff]
        simp only [List.any_eq_true]
        refine exists_congr fun q => and_congr_right fun hq => ?_
        have : p ≠ q := by rintro rfl; exact hp hq
        rw [Framebuffer.pixel_flip _ hpb]; simp [this]
      simp [plot, hany, Bool.or_assoc]

theorem mem_spritePixels (xs ys r : Nat) (rows : List Byte) (q : Nat) :
    q ∈ spritePixels xs ys r rows ↔
      ∃ (k : Nat) (h : k < rows.length) (b : Nat), b < 8 ∧ spriteBit rows[k] b = true ∧
        pixelIndex xs ys (r + k) b = q := by
  induction rows generalizing r with
  | nil => simp [spritePixels]
  | cons row rest ih =>
    rw [spritePixels, List.mem_append, ih]
    simp only [rowPixels, List.mem_map, List.mem_filter, List.mem_range]
    constructor
    · rintro (⟨b, ⟨hb, hs⟩, rfl⟩ | ⟨k, h, b, hb, hs, rfl⟩)
      · exact ⟨0, by simp, b, hb, hs, rfl⟩
      · exact ⟨k + 1, by simpa using h, b, hb, by simpa using hs, by congr 1; omega⟩
    · rintro ⟨k, h, b, hb, hs, rfl⟩
      cases k with
      | zero => exact .inl ⟨b, ⟨hb, hs⟩, rfl⟩
      | succ k => exact .inr ⟨k, by simpa using h, b, hb, by simpa using hs, by congr 1; omega⟩

/-- In one draw no pixel is hit twice (R122). -/
theorem nodup_spritePixels {xs ys r : Nat} {rows : List Byte} (hr : rows.length ≤ 32) :
    (spritePixels xs ys r rows).Nodup := by
  induction rows generalizing r with
  | nil => simp [spritePixels]
  | cons row rest ih =>
    rw [List.length_cons] at hr
    refine List.nodup_append.mpr ⟨?_, ih (by omega), ?_⟩
    · refine List.Nodup.map_on (fun a ha b hb h => ?_) ((List.nodup_range).filter _)
      simp only [List.mem_filter, List.mem_range] at ha hb
      simp only [pixelIndex] at h
      omega
    · rintro p hp q hq rfl
      simp only [rowPixels, List.mem_map, List.mem_filter, List.mem_range] at hp
      obtain ⟨b, ⟨hb, _⟩, rfl⟩ := hp
      obtain ⟨k, hk, b', hb', _, h⟩ := (mem_spritePixels ..).mp hq
      simp only [pixelIndex] at h
      omega

/-- What a sprite of at most 32 rows does: each pixel its set bits land on is flipped, and the flag is whether
one of them was lit. -/
theorem drawSprite_spec {xs ys : Nat} {rows : List Byte} (hr : rows.length ≤ 32) (fb : Framebuffer) :
    (∀ q, (drawSprite xs ys rows fb).1.pixel q = (fb.pixel q ^^ decide (q ∈ spritePixels xs ys 0 rows))) ∧
    ((drawSprite xs ys rows fb).2 = true ↔ ∃ q ∈ spritePixels xs ys 0 rows, fb.pixel q = true) := by
  have h := foldl_plot (nodup_spritePixels (xs := xs) (ys := ys) (r := 0) hr)
    (fun p hp => by
      obtain ⟨k, hk, b, hb, _, rfl⟩ := (mem_spritePixels ..).mp hp
      exact pixelIndex_lt ..) (fb, false)
  rw [drawSprite, drawRows_eq_foldl]
  exact ⟨h.1, by rw [h.2]; simp⟩

end Sys2Proof.Machine
end

