-- ==== Sys2Proof/Laws/Exec.lean ====
section
/-! SUPPORT. Inversion: what is known when an instruction with a guard answers a next state. The other
instructions answer one next state on every path, so `exec i s = .next t` gives theirs by `cases`. -/

namespace Sys2Proof.Machine

open Sys2Proof

theorem exec_ret_next {s t : State} (h : exec .ret s = .next t) :
    ∃ (k : Fin 16) (p : Fin 17), s.sp.val = k.val + 1 ∧ p.val = k.val ∧
      t = ({ s with sp := p } : State).setPc (s.stack[k.val] + 2) := by
  rcases pop_cases s fun t s' => .next (s'.setPc (t + 2)) with ⟨k, p, hk, hp, e⟩ | ⟨_, e⟩
  · cases (h.symm.trans e); exact ⟨k, p, hk, hp, rfl⟩
  · cases (h.symm.trans e)

theorem exec_call_next {nnn : Addr12} {s t : State} (h : exec (.call nnn) s = .next t) :
    ∃ (hl : s.sp.val < 16) (p : Fin 17), p.val = s.sp.val + 1 ∧
      t = ({ s with stack := s.stack.set s.sp.val s.pc, sp := p } : State).setPc (addrOperand nnn) := by
  rcases push_cases s s.pc fun s' => .next (s'.setPc (addrOperand nnn)) with ⟨hl, p, hp, e⟩ | ⟨_, e⟩
  · cases (h.symm.trans e); exact ⟨hl, p, hp, rfl⟩
  · cases (h.symm.trans e)

theorem exec_drw_next {x y : Reg} {n : RowCount} {s t : State} (h : exec (.drw x y n) s = .next t) :
    (n.val = 0 ∨ s.I.toNat + n.val ≤ 4096) ∧
      ∃ d, d = drawSprite (s.reg x).toNat (s.reg y).toNat (s.bytesAtI n.val) s.fb ∧
        t = ((s.setFrame d.1).setFlag d.2).done := by
  rcases guardRange_cases s.I.toNat n.val (.next
    ((s.setFrame (drawSprite (s.reg x).toNat (s.reg y).toNat (s.bytesAtI n.val) s.fb).1).setFlag
      (drawSprite (s.reg x).toNat (s.reg y).toNat (s.bytesAtI n.val) s.fb).2).done) with ⟨hg, e⟩ | ⟨_, e⟩
  · cases (h.symm.trans e); exact ⟨hg, _, rfl, rfl⟩
  · cases (h.symm.trans e)

theorem exec_skp_next {x : Reg} {s t : State} (h : exec (.skp x) s = .next t) :
    ∃ k : KeyIndex, (s.reg x).toNat = k.val ∧ t = s.skipIf (s.isPressed k) := by
  rcases withKey_cases (s.reg x) fun k => .next (s.skipIf (s.isPressed k)) with ⟨k, hk, e⟩ | ⟨_, e⟩
  · cases (h.symm.trans e); exact ⟨k, hk, rfl⟩
  · cases (h.symm.trans e)

theorem exec_sknp_next {x : Reg} {s t : State} (h : exec (.sknp x) s = .next t) :
    ∃ k : KeyIndex, (s.reg x).toNat = k.val ∧ t = s.skipIf (!s.isPressed k) := by
  rcases withKey_cases (s.reg x) fun k => .next (s.skipIf (!s.isPressed k)) with ⟨k, hk, e⟩ | ⟨_, e⟩
  · cases (h.symm.trans e); exact ⟨k, hk, rfl⟩
  · cases (h.symm.trans e)

/-- A guarded store that answers a next state: the range is in memory, and off the font if it is protected. -/
theorem guardedStore_next {c : Config} {start len : Nat} {s t : State}
    (h : guardRange start len (guardFont c start (.next s)) = .next t) :
    (len = 0 ∨ start + len ≤ 4096) ∧ ¬(c.fontProtect = true ∧ start < 0x050) ∧ t = s := by
  rcases guardRange_cases start len (guardFont c start (.next s)) with ⟨hr, e⟩ | ⟨_, e⟩
  · rcases guardFont_cases c start (.next s) with ⟨hf, e'⟩ | ⟨_, e'⟩
    · cases (h.symm.trans (e.trans e')); exact ⟨hr, hf, rfl⟩
    · cases (h.symm.trans (e.trans e'))
  · cases (h.symm.trans e)

theorem exec_ldBVx_next {x : Reg} {s t : State} (h : exec (.ldBVx x) s = .next t) :
    0x050 ≤ s.I.toNat ∧ s.I.toNat + 3 ≤ 4096 ∧
      t = (s.setMem (s.mem.writeBytes s.I.toNat (bcdDigits (s.reg x)))).done := by
  obtain ⟨hr, hf, rfl⟩ := guardedStore_next (c := Config.hardware) h
  simp only [hardware_fontProtect, true_and, not_lt] at hf
  exact ⟨hf, by omega, rfl⟩

theorem exec_ldMemVx_next {x : Reg} {s t : State} (h : exec (.ldMemVx x) s = .next t) :
    0x050 ≤ s.I.toNat ∧ s.I.toNat + (x.val + 1) ≤ 4096 ∧
      t = ((s.setMem (s.mem.writeBytes s.I.toNat (s.regsUpTo x))).bumpI x).done := by
  obtain ⟨hr, hf, rfl⟩ := guardedStore_next (c := Config.hardware) h
  simp only [hardware_fontProtect, true_and, not_lt] at hf
  exact ⟨hf, by omega, rfl⟩

theorem exec_ldVxMem_next {x : Reg} {s t : State} (h : exec (.ldVxMem x) s = .next t) :
    s.I.toNat + (x.val + 1) ≤ 4096 ∧ t = ((s.loadRegs x).bumpI x).done := by
  rcases guardRange_cases s.I.toNat (x.val + 1) (.next ((s.loadRegs x).bumpI x).done) with ⟨hr, e⟩ | ⟨_, e⟩
  · cases (h.symm.trans e); exact ⟨by omega, rfl⟩
  · cases (h.symm.trans e)

theorem exec_ldVxK_next {x : Reg} {s t : State} (h : exec (.ldVxK x) s = .next t) :
    (s.pressedKeys = [] ∧ t = s) ∨
    ∃ k ks, s.pressedKeys = k :: ks ∧ t = (s.setReg x (BitVec.ofNat 8 k.val)).done := by
  change execLdVxKWith Config.hardware x s = _ at h
  rw [execLdVxKWith] at h
  cases hp : s.pressedKeys <;> rw [hp] at h <;> cases h
  · exact .inl ⟨rfl, rfl⟩
  · exact .inr ⟨_, _, rfl, rfl⟩

end Sys2Proof.Machine
end

