-- ==== Sys2Proof/Laws/Memory.lean ====
section
/-! SUPPORT. The laws of memory (`20_memory.md` R69): a read after a write, and the canonical form every
operation keeps. -/

namespace Sys2Proof.Machine.Memory

open Sys2Proof

/-! ### Reads after writes -/

theorem lookup_erase (m : Memory) (a b : Nat) : (m.erase a).lookup b = if b = a then none else m.lookup b := by
  induction m with
  | nil => simp [erase, lookup]
  | cons c rest ih =>
    obtain ⟨d, w⟩ := c
    simp only [erase, List.filter_cons, bne_iff_ne, ne_eq] at ih ⊢
    by_cases hd : d = a <;> by_cases hb : d = b <;> simp_all [lookup]

theorem lookup_insert {m : Memory} {a : Nat} (h : m.lookup a = none) (v : Byte) (b : Nat) :
    (m.insert a v).lookup b = if b = a then some v else m.lookup b := by
  induction m with
  | nil => simp [insert, lookup, eq_comm]
  | cons c rest ih =>
    obtain ⟨d, w⟩ := c
    have hd : d ≠ a := by rintro rfl; simp [lookup] at h
    have hr : lookup rest a = none := by simpa [lookup, hd] using h
    by_cases hlt : a < d
    · by_cases hb : b = a
      · simp [insert, lookup, hlt, hb]
      · simp [insert, lookup, hlt, hb, Ne.symm hb]
    · by_cases hb : d = b
      · subst hb; simp [insert, lookup, hlt, hd]
      · simp [insert, lookup, hlt, hb, ih hr]

/-- What one byte reads as after a write (R69): the byte written, there, and as before, elsewhere. -/
theorem read_write (m : Memory) (a : Nat) (v : Byte) (b : Nat) :
    (m.write a v).read b = if b = a then v else m.read b := by
  have he : (m.erase a).lookup a = none := by simp [lookup_erase]
  by_cases hv : v = unlisted a <;> by_cases hb : b = a <;>
    simp [read, write, hv, hb, lookup_erase, lookup_insert he]

@[simp] theorem read_write_same (m : Memory) (a : Nat) (v : Byte) : (m.write a v).read a = v := by
  simp [read_write]

@[simp] theorem read_write_of_ne (m : Memory) {a b : Nat} (v : Byte) (h : b ≠ a) :
    (m.write a v).read b = m.read b := by
  simp [read_write, h]

/-- What one byte reads as after bytes are written at ascending addresses (R64). -/
theorem read_writeBytes (bytes : List Byte) (m : Memory) (a b : Nat) :
    (m.writeBytes a bytes).read b =
      if h : a ≤ b ∧ b < a + bytes.length then bytes[b - a]'(by omega) else m.read b := by
  induction bytes generalizing m a with
  | nil => simp [writeBytes]
  | cons v rest ih =>
    simp only [writeBytes, ih, List.length_cons]
    by_cases h0 : b = a
    · subst h0; simp
    · by_cases h1 : a + 1 ≤ b ∧ b < a + 1 + rest.length
      · have h2 : a ≤ b ∧ b < a + (rest.length + 1) := by omega
        have h3 : b - a = (b - (a + 1)) + 1 := by omega
        simp [h1, h2, h3]
      · have h2 : ¬(a ≤ b ∧ b < a + (rest.length + 1)) := by omega
        rw [dif_neg h1, dif_neg h2, read_write_of_ne m v h0]

/-- Bytes outside the range written read as before. -/
theorem read_writeBytes_outside {bytes : List Byte} (m : Memory) {a b : Nat}
    (h : ¬(a ≤ b ∧ b < a + bytes.length)) : (m.writeBytes a bytes).read b = m.read b := by
  rw [read_writeBytes, dif_neg h]

/-- The `k`-th byte written reads back. -/
theorem read_writeBytes_inside {bytes : List Byte} (m : Memory) (a : Nat) {k : Nat} (h : k < bytes.length) :
    (m.writeBytes a bytes).read (a + k) = bytes[k] := by
  rw [read_writeBytes, dif_pos (by omega)]
  simp

/-! ### The canonical form -/

theorem wfFrom_mono {m : Memory} {lo lo' : Nat} (h : lo' ≤ lo) (hm : wfFrom lo m = true) :
    wfFrom lo' m = true := by
  cases m with
  | nil => rfl
  | cons c rest =>
    simp only [wfFrom, Bool.and_eq_true, decide_eq_true_eq] at hm ⊢
    exact ⟨⟨⟨by omega, hm.1.1.2⟩, hm.1.2⟩, hm.2⟩

theorem wfFrom_erase {m : Memory} {lo : Nat} (a : Nat) (hm : wfFrom lo m = true) :
    wfFrom lo (m.erase a) = true := by
  induction m generalizing lo with
  | nil => rfl
  | cons c rest ih =>
    simp only [wfFrom, Bool.and_eq_true, decide_eq_true_eq] at hm
    have hr := ih hm.2
    by_cases hc : c.1 = a
    · have : erase (c :: rest) a = erase rest a := by simp [erase, hc]
      rw [this]
      exact wfFrom_mono (by omega) hr
    · have : erase (c :: rest) a = c :: erase rest a := by simp [erase, hc]
      rw [this]
      simp only [wfFrom, Bool.and_eq_true, decide_eq_true_eq]
      exact ⟨hm.1, hr⟩

theorem wfFrom_insert {m : Memory} {lo a : Nat} {v : Byte} (hlo : lo ≤ a) (ha : a < memSize)
    (hv : v ≠ unlisted a) (hn : m.lookup a = none) (hm : wfFrom lo m = true) :
    wfFrom lo (m.insert a v) = true := by
  induction m generalizing lo with
  | nil => simp [insert, wfFrom, hlo, hv]; exact ha
  | cons c rest ih =>
    obtain ⟨d, w⟩ := c
    have hd : d ≠ a := by rintro rfl; simp [lookup] at hn
    have hr : lookup rest a = none := by simpa [lookup, hd] using hn
    simp only [wfFrom, Bool.and_eq_true, decide_eq_true_eq] at hm
    by_cases hlt : a < d
    · simp only [insert, if_pos hlt, wfFrom, Bool.and_eq_true, decide_eq_true_eq]
      exact ⟨⟨⟨hlo, ha⟩, hv⟩, ⟨⟨by omega, hm.1.1.2⟩, hm.1.2⟩, hm.2⟩
    · simp only [insert, if_neg hlt, wfFrom, Bool.and_eq_true, decide_eq_true_eq]
      exact ⟨hm.1, ih (by omega) hr hm.2⟩

/-- A write to an address of memory keeps the canonical form. -/
theorem wf_write {m : Memory} {a : Nat} (v : Byte) (ha : a < memSize) (hm : m.wf = true) :
    (m.write a v).wf = true := by
  have he : wfFrom 0 (m.erase a) = true := wfFrom_erase a hm
  by_cases hv : v = unlisted a
  · simpa [write, hv, wf] using he
  · simpa [write, hv, wf] using wfFrom_insert (Nat.zero_le a) ha hv (by simp [lookup_erase]) he

/-- Bytes written inside memory keep the canonical form. -/
theorem wf_writeBytes {bytes : List Byte} {m : Memory} {a : Nat} (ha : a + bytes.length ≤ memSize)
    (hm : m.wf = true) : (m.writeBytes a bytes).wf = true := by
  induction bytes generalizing m a with
  | nil => exact hm
  | cons v rest ih =>
    rw [List.length_cons] at ha
    exact ih (by omega) (wf_write v (by omega) hm)

/-- Reset memory, with nothing listed, is in the canonical form. -/
theorem wf_nil : wf [] = true := rfl

end Sys2Proof.Machine.Memory
end

