-- ==== Sys2Proof/Laws/PerInstr.lean ====
section
/-! SUPPORT. Per instruction: its word has the fixed bits of its row of the opcode map, and the row is in the
table. -/

namespace Sys2Proof.Laws.TableRow

open Sys2Proof

/-- The word of an instruction matches the instruction's own row, which is a row of the opcode map (R95, R96). -/
def Statement (i : Instr) : Prop := i.row ∈ opcodeTable ∧ i.row.matchesWord (encode i) = true

theorem cls : Statement .cls := ⟨by decide, by decide⟩

theorem ret : Statement .ret := ⟨by decide, by decide⟩

theorem jp (nnn : Addr12) : Statement (.jp nnn) :=
  ⟨by simp [opcodeTable, Instr.row], matches_F000 (by
    have h0 := nnn.isLt; simp [encode, Instr.row, Instr.operandNumbers]; omega)⟩

theorem call (nnn : Addr12) : Statement (.call nnn) :=
  ⟨by simp [opcodeTable, Instr.row], matches_F000 (by
    have h0 := nnn.isLt; simp [encode, Instr.row, Instr.operandNumbers]; omega)⟩

theorem seImm (x : Reg) (nn : Byte) : Statement (.seImm x nn) :=
  ⟨by simp [opcodeTable, Instr.row], matches_F000 (by
    have h0 := x.isLt; have h1 := nn.isLt; simp [encode, Instr.row, Instr.operandNumbers]; omega)⟩

theorem sneImm (x : Reg) (nn : Byte) : Statement (.sneImm x nn) :=
  ⟨by simp [opcodeTable, Instr.row], matches_F000 (by
    have h0 := x.isLt; have h1 := nn.isLt; simp [encode, Instr.row, Instr.operandNumbers]; omega)⟩

theorem seReg (x : Reg) (y : Reg) : Statement (.seReg x y) :=
  ⟨by simp [opcodeTable, Instr.row], matches_F00F (by
    have h0 := x.isLt; have h1 := y.isLt; simp [encode, Instr.row, Instr.operandNumbers]; omega)⟩

theorem ldImm (x : Reg) (nn : Byte) : Statement (.ldImm x nn) :=
  ⟨by simp [opcodeTable, Instr.row], matches_F000 (by
    have h0 := x.isLt; have h1 := nn.isLt; simp [encode, Instr.row, Instr.operandNumbers]; omega)⟩

theorem addImm (x : Reg) (nn : Byte) : Statement (.addImm x nn) :=
  ⟨by simp [opcodeTable, Instr.row], matches_F000 (by
    have h0 := x.isLt; have h1 := nn.isLt; simp [encode, Instr.row, Instr.operandNumbers]; omega)⟩

theorem ldReg (x : Reg) (y : Reg) : Statement (.ldReg x y) :=
  ⟨by simp [opcodeTable, Instr.row], matches_F00F (by
    have h0 := x.isLt; have h1 := y.isLt; simp [encode, Instr.row, Instr.operandNumbers]; omega)⟩

theorem orReg (x : Reg) (y : Reg) : Statement (.orReg x y) :=
  ⟨by simp [opcodeTable, Instr.row], matches_F00F (by
    have h0 := x.isLt; have h1 := y.isLt; simp [encode, Instr.row, Instr.operandNumbers]; omega)⟩

theorem andReg (x : Reg) (y : Reg) : Statement (.andReg x y) :=
  ⟨by simp [opcodeTable, Instr.row], matches_F00F (by
    have h0 := x.isLt; have h1 := y.isLt; simp [encode, Instr.row, Instr.operandNumbers]; omega)⟩

theorem xorReg (x : Reg) (y : Reg) : Statement (.xorReg x y) :=
  ⟨by simp [opcodeTable, Instr.row], matches_F00F (by
    have h0 := x.isLt; have h1 := y.isLt; simp [encode, Instr.row, Instr.operandNumbers]; omega)⟩

theorem addReg (x : Reg) (y : Reg) : Statement (.addReg x y) :=
  ⟨by simp [opcodeTable, Instr.row], matches_F00F (by
    have h0 := x.isLt; have h1 := y.isLt; simp [encode, Instr.row, Instr.operandNumbers]; omega)⟩

theorem subReg (x : Reg) (y : Reg) : Statement (.subReg x y) :=
  ⟨by simp [opcodeTable, Instr.row], matches_F00F (by
    have h0 := x.isLt; have h1 := y.isLt; simp [encode, Instr.row, Instr.operandNumbers]; omega)⟩

theorem shr (x : Reg) (y : Reg) : Statement (.shr x y) :=
  ⟨by simp [opcodeTable, Instr.row], matches_F00F (by
    have h0 := x.isLt; have h1 := y.isLt; simp [encode, Instr.row, Instr.operandNumbers]; omega)⟩

theorem subn (x : Reg) (y : Reg) : Statement (.subn x y) :=
  ⟨by simp [opcodeTable, Instr.row], matches_F00F (by
    have h0 := x.isLt; have h1 := y.isLt; simp [encode, Instr.row, Instr.operandNumbers]; omega)⟩

theorem shl (x : Reg) (y : Reg) : Statement (.shl x y) :=
  ⟨by simp [opcodeTable, Instr.row], matches_F00F (by
    have h0 := x.isLt; have h1 := y.isLt; simp [encode, Instr.row, Instr.operandNumbers]; omega)⟩

theorem sneReg (x : Reg) (y : Reg) : Statement (.sneReg x y) :=
  ⟨by simp [opcodeTable, Instr.row], matches_F00F (by
    have h0 := x.isLt; have h1 := y.isLt; simp [encode, Instr.row, Instr.operandNumbers]; omega)⟩

theorem ldI (nnn : Addr12) : Statement (.ldI nnn) :=
  ⟨by simp [opcodeTable, Instr.row], matches_F000 (by
    have h0 := nnn.isLt; simp [encode, Instr.row, Instr.operandNumbers]; omega)⟩

theorem jpV0 (nnn : Addr12) : Statement (.jpV0 nnn) :=
  ⟨by simp [opcodeTable, Instr.row], matches_F000 (by
    have h0 := nnn.isLt; simp [encode, Instr.row, Instr.operandNumbers]; omega)⟩

theorem rnd (x : Reg) (nn : Byte) : Statement (.rnd x nn) :=
  ⟨by simp [opcodeTable, Instr.row], matches_F000 (by
    have h0 := x.isLt; have h1 := nn.isLt; simp [encode, Instr.row, Instr.operandNumbers]; omega)⟩

theorem drw (x : Reg) (y : Reg) (n : RowCount) : Statement (.drw x y n) :=
  ⟨by simp [opcodeTable, Instr.row], matches_F000 (by
    have h0 := x.isLt; have h1 := y.isLt; have h2 := n.isLt; simp [encode, Instr.row, Instr.operandNumbers]; omega)⟩

theorem skp (x : Reg) : Statement (.skp x) :=
  ⟨by simp [opcodeTable, Instr.row], matches_F0FF (by
    have h0 := x.isLt; simp [encode, Instr.row, Instr.operandNumbers]; omega)⟩

theorem sknp (x : Reg) : Statement (.sknp x) :=
  ⟨by simp [opcodeTable, Instr.row], matches_F0FF (by
    have h0 := x.isLt; simp [encode, Instr.row, Instr.operandNumbers]; omega)⟩

theorem ldVxDt (x : Reg) : Statement (.ldVxDt x) :=
  ⟨by simp [opcodeTable, Instr.row], matches_F0FF (by
    have h0 := x.isLt; simp [encode, Instr.row, Instr.operandNumbers]; omega)⟩

theorem ldVxK (x : Reg) : Statement (.ldVxK x) :=
  ⟨by simp [opcodeTable, Instr.row], matches_F0FF (by
    have h0 := x.isLt; simp [encode, Instr.row, Instr.operandNumbers]; omega)⟩

theorem ldDtVx (x : Reg) : Statement (.ldDtVx x) :=
  ⟨by simp [opcodeTable, Instr.row], matches_F0FF (by
    have h0 := x.isLt; simp [encode, Instr.row, Instr.operandNumbers]; omega)⟩

theorem ldStVx (x : Reg) : Statement (.ldStVx x) :=
  ⟨by simp [opcodeTable, Instr.row], matches_F0FF (by
    have h0 := x.isLt; simp [encode, Instr.row, Instr.operandNumbers]; omega)⟩

theorem addIVx (x : Reg) : Statement (.addIVx x) :=
  ⟨by simp [opcodeTable, Instr.row], matches_F0FF (by
    have h0 := x.isLt; simp [encode, Instr.row, Instr.operandNumbers]; omega)⟩

theorem ldFVx (x : Reg) : Statement (.ldFVx x) :=
  ⟨by simp [opcodeTable, Instr.row], matches_F0FF (by
    have h0 := x.isLt; simp [encode, Instr.row, Instr.operandNumbers]; omega)⟩

theorem ldBVx (x : Reg) : Statement (.ldBVx x) :=
  ⟨by simp [opcodeTable, Instr.row], matches_F0FF (by
    have h0 := x.isLt; simp [encode, Instr.row, Instr.operandNumbers]; omega)⟩

theorem ldMemVx (x : Reg) : Statement (.ldMemVx x) :=
  ⟨by simp [opcodeTable, Instr.row], matches_F0FF (by
    have h0 := x.isLt; simp [encode, Instr.row, Instr.operandNumbers]; omega)⟩

theorem ldVxMem (x : Reg) : Statement (.ldVxMem x) :=
  ⟨by simp [opcodeTable, Instr.row], matches_F0FF (by
    have h0 := x.isLt; simp [encode, Instr.row, Instr.operandNumbers]; omega)⟩

end Sys2Proof.Laws.TableRow
end

