-- ==== Sys2Proof/Tests/Slice0.lean ====
section
/-! SUPPORT. Tests of the model, with expected results from `95_test_vectors.md` (each named by its number
there) or from the encoding tables of `30_encoding.md`; and, for every obligation with hypotheses, a concrete
state and operands that meet them. -/

namespace Sys2Proof.Tests

open Sys2Proof Sys2Proof.Machine

set_option Elab.async false

/-! ### Helpers -/

/-- One step of a state with a word placed at its pc. -/
def on (w : Nat) (s : State) : Outcome := step (s.withFetchWord 16 w)

/-- The step ended in a state with a property. -/
def gives (o : Outcome) (p : State → Bool) : Bool :=
  match o with
  | .next t => p t
  | _ => false

/-- The step ended in a fault. -/
def stops (o : Outcome) (f : Fault) : Bool :=
  match o with
  | .fault g => g == f
  | _ => false

/-- The reset state with registers set. -/
def withRegs (l : List (Reg × Byte)) : State := l.foldl (fun s c => s.setReg c.1 c.2) State.reset

/-- A state with I set and bytes in memory from there on. -/
def atI (s : State) (a : Word) (bytes : List Byte) : State := (s.setMem (s.mem.writeBytes a.toNat bytes)).setI a

/-- A state with some keys pressed. -/
def withKeys (s : State) (l : List KeyIndex) : State := l.foldl (fun s k => s.setKey k true) s

/-- A state with the first `n` stack entries in use, each one the address `a`. -/
def withStack (s : State) (n : Fin 17) (a : Word) : State := { s with sp := n, stack := Vector.replicate 16 a }

/-- The number of a pixel (R39). -/
def px (x y : Nat) : Nat := x + 64 * y

/-! ### Well-formedness refuses an ill-formed term for each check -/

theorem test_wellFormed_refuses_x : OperandNumbers.wellFormed { x := 16 } = false := by decide
theorem test_wellFormed_refuses_y : OperandNumbers.wellFormed { y := 16 } = false := by decide
theorem test_wellFormed_refuses_n : OperandNumbers.wellFormed { n := 16 } = false := by decide
theorem test_wellFormed_refuses_nn : OperandNumbers.wellFormed { nn := 256 } = false := by decide
theorem test_wellFormed_refuses_nnn : OperandNumbers.wellFormed { nnn := 4096 } = false := by decide
theorem test_wellFormed_accepts_the_widest : OperandNumbers.wellFormed ⟨15, 15, 15, 255, 4095⟩ = true := by decide
theorem test_config_refuses_a_short_font :
    Config.wellFormed { Config.hardware with font := standardFont.take 79 } = false := by decide
theorem test_config_accepts_hardware : Config.hardware.wellFormed = true := by decide

/-! ### Decoding: for every constructor a word written out from its pattern in R96, digit by digit -/

theorem test_decode_display : decodeWord 0x00E0 = some .cls ∧ decodeWord 0xD7A3 = some (.drw 7 0xA 3) := by decide

theorem test_decode_control :
    decodeWord 0x00EE = some .ret ∧ decodeWord 0x1ABC = some (.jp 0xABC) ∧
    decodeWord 0x2DEF = some (.call 0xDEF) ∧ decodeWord 0x3A5C = some (.seImm 0xA 0x5C) ∧
    decodeWord 0x4B7E = some (.sneImm 0xB 0x7E) ∧ decodeWord 0x5CD0 = some (.seReg 0xC 0xD) ∧
    decodeWord 0x9EF0 = some (.sneReg 0xE 0xF) ∧ decodeWord 0xB123 = some (.jpV0 0x123) := by decide

theorem test_decode_alu :
    decodeWord 0x6789 = some (.ldImm 7 0x89) ∧ decodeWord 0x7FED = some (.addImm 0xF 0xED) ∧
    decodeWord 0x8120 = some (.ldReg 1 2) ∧ decodeWord 0x8341 = some (.orReg 3 4) ∧
    decodeWord 0x8562 = some (.andReg 5 6) ∧ decodeWord 0x8783 = some (.xorReg 7 8) ∧
    decodeWord 0x89A4 = some (.addReg 9 0xA) ∧ decodeWord 0x8BC5 = some (.subReg 0xB 0xC) ∧
    decodeWord 0x8DE6 = some (.shr 0xD 0xE) ∧ decodeWord 0x8F07 = some (.subn 0xF 0) ∧
    decodeWord 0x812E = some (.shl 1 2) ∧ decodeWord 0xC5F0 = some (.rnd 5 0xF0) := by decide

theorem test_decode_index :
    decodeWord 0xA987 = some (.ldI 0x987) ∧ decodeWord 0xF11E = some (.addIVx 1) ∧
    decodeWord 0xF229 = some (.ldFVx 2) ∧ decodeWord 0xF333 = some (.ldBVx 3) ∧
    decodeWord 0xF455 = some (.ldMemVx 4) ∧ decodeWord 0xF565 = some (.ldVxMem 5) := by decide

theorem test_decode_keys :
    decodeWord 0xE69E = some (.skp 6) ∧ decodeWord 0xE7A1 = some (.sknp 7) ∧
    decodeWord 0xF807 = some (.ldVxDt 8) ∧ decodeWord 0xF90A = some (.ldVxK 9) ∧
    decodeWord 0xFA15 = some (.ldDtVx 0xA) ∧ decodeWord 0xFB18 = some (.ldStVx 0xB) := by decide

/-- R97: a word of each range that is not recognised, and bytes too few. -/
theorem test_decode_rejects :
    decode [0x02, 0x00] = .error (.unrecognised 0x0200) ∧ decode [0x51, 0x21] = .error (.unrecognised 0x5121) ∧
    decode [0x80, 0x1F] = .error (.unrecognised 0x801F) ∧ decode [0x91, 0x2F] = .error (.unrecognised 0x912F) ∧
    decode [0xE0, 0x9F] = .error (.unrecognised 0xE09F) ∧ decode [0xF0, 0xFF] = .error (.unrecognised 0xF0FF) ∧
    decode [0xF0] = .error .truncated := by decide

/-! ### Display -/

/-- V1. -/
theorem test_cls : gives (on 0x00E0 (State.reset.setFrame (BitVec.ofNat 2048 (1 + 2 ^ 2047))))
    (fun t => t.fb == 0 && t.dirty && t.pc == 0x202) = true := by decide +kernel

/-- S7 and P6: two rows of eight at the corner light columns 63 and 0 to 6 of rows 31 and 0, and no more. -/
theorem test_drw_wraps :
    gives (on 0xD012 (atI (withRegs [(0, 63), (1, 31), (15, 9)]) 0x300 [0xFF, 0xFF]))
      (fun t => t.fb == BitVec.ofNat 2048 ((2 ^ 63 + 0x7F) * (1 + 2 ^ px 0 31)) && t.reg vf == 0 && t.dirty &&
        t.I == 0x300 && t.pc == 0x202) = true := by decide +kernel

/-- V5: one bit collides in the first row, the second row is empty. -/
theorem test_drw_collision_in_any_row :
    gives (on 0xD012 (atI (State.reset.setFrame (BitVec.twoPow 2048 (px 1 0))) 0x300 [0xC0, 0x00]))
      (fun t => t.fb == BitVec.twoPow 2048 (px 0 0) && t.reg vf == 1) = true := by decide +kernel

/-! ### Control flow -/

/-- V14: a return to an odd address. -/
theorem test_ret : gives (on 0x00EE (withStack (State.reset.setPc 0x400) 1 0x301))
    (fun t => t.pc == 0x303 && t.sp == 0) = true := by decide +kernel

/-- V13. -/
theorem test_ret_underflow : stops (on 0x00EE (State.reset.setPc 0x310)) (.stackUnderflow 0x310) = true := by
  decide +kernel

/-- V15. -/
theorem test_jp : gives (on 0x1234 State.reset) (fun t => t.pc == 0x234) = true := by decide +kernel

/-- V18: the last free entry. -/
theorem test_call : gives (on 0x2210 (withStack (State.reset.setPc 0x204) 15 0))
    (fun t => t.stack[15] == 0x204 && t.stack[14] == 0 && t.sp == 16 && t.pc == 0x210) = true := by decide +kernel

/-- V19. -/
theorem test_call_overflow : stops (on 0x2210 (withStack (State.reset.setPc 0x204) 16 0)) (.stackOverflow 0x204) = true := by
  decide +kernel

/-- V20. -/
theorem test_se_imm : gives (on 0x3312 (withRegs [(3, 0x12)])) (fun t => t.pc == 0x204) = true := by decide +kernel

/-- V23. -/
theorem test_sne_imm : gives (on 0x4312 (withRegs [(3, 0x12)])) (fun t => t.pc == 0x202) = true := by decide +kernel

/-- V25. -/
theorem test_se_reg : gives (on 0x5120 (withRegs [(1, 7), (2, 8)])) (fun t => t.pc == 0x202) = true := by decide +kernel

/-- V28. -/
theorem test_sne_reg : gives (on 0x9120 (withRegs [(1, 7), (2, 8)])) (fun t => t.pc == 0x204) = true := by decide +kernel

/-- V32: the sum is not masked to 12 bits. -/
theorem test_jp_v0 : gives (on 0xBFFF (withRegs [(0, 0xFF)])) (fun t => t.pc == 0x10FE) = true := by decide +kernel

/-! ### Registers and arithmetic -/

/-- V38. -/
theorem test_ld_imm : gives (on 0x6A42 State.reset) (fun t => t.reg 10 == 0x42 && t.pc == 0x202) = true := by decide +kernel

/-- V39: no flag. -/
theorem test_add_imm_wraps : gives (on 0x70FF (withRegs [(0, 1), (15, 0x77)]))
    (fun t => t.reg 0 == 0 && t.reg vf == 0x77) = true := by decide +kernel

/-- V41. -/
theorem test_ld_reg : gives (on 0x8010 (withRegs [(1, 0x33)])) (fun t => t.reg 0 == 0x33 && t.reg 1 == 0x33) = true := by
  decide +kernel

/-- V42. -/
theorem test_or : gives (on 0x8011 (withRegs [(0, 0xF0), (1, 0x0F), (15, 9)]))
    (fun t => t.reg 0 == 0xFF && t.reg vf == 9) = true := by decide +kernel

/-- V43. -/
theorem test_and : gives (on 0x8012 (withRegs [(0, 0xF0), (1, 0x3C)])) (fun t => t.reg 0 == 0x30) = true := by decide +kernel

/-- V44. -/
theorem test_xor : gives (on 0x8013 (withRegs [(0, 0xFF), (1, 0x0F)])) (fun t => t.reg 0 == 0xF0) = true := by decide +kernel

/-- S4. -/
theorem test_add_carry : gives (on 0x8014 (withRegs [(0, 0xFF), (1, 1)])) (fun t => t.reg 0 == 0 && t.reg vf == 1) = true := by
  decide +kernel

/-- V47: VF ends as the flag. -/
theorem test_add_into_vf : gives (on 0x8F04 (withRegs [(15, 0x80), (0, 0x80)])) (fun t => t.reg vf == 1) = true := by
  decide +kernel

/-- S5. -/
theorem test_sub_borrows : gives (on 0x8015 (withRegs [(0, 1), (1, 2)])) (fun t => t.reg 0 == 0xFF && t.reg vf == 0) = true := by
  decide +kernel

/-- V49: equal operands need no borrow. -/
theorem test_sub_equal : gives (on 0x8015 (withRegs [(0, 5), (1, 5)])) (fun t => t.reg 0 == 0 && t.reg vf == 1) = true := by
  decide +kernel

/-- V54: Y is ignored. -/
theorem test_shr : gives (on 0x8016 (withRegs [(0, 4), (1, 0xFF), (15, 1)])) (fun t => t.reg 0 == 2 && t.reg vf == 0) = true := by
  decide +kernel

/-- V54 under `SHIFT_SRC = VY`. -/
theorem test_shr_of_vy :
    gives (execWith { Config.hardware with shiftSrc := .vy } (.shr 0 1) (withRegs [(0, 4), (1, 0xFF)]))
      (fun t => t.reg 0 == 0x7F && t.reg vf == 1) = true := by decide +kernel

/-- V56. -/
theorem test_subn : gives (on 0x8017 (withRegs [(0, 1), (1, 3)])) (fun t => t.reg 0 == 2 && t.reg vf == 1) = true := by
  decide +kernel

/-- V57. -/
theorem test_subn_borrows : gives (on 0x8017 (withRegs [(0, 3), (1, 1)])) (fun t => t.reg 0 == 0xFE && t.reg vf == 0) = true := by
  decide +kernel

/-- V59. -/
theorem test_shl : gives (on 0x800E (withRegs [(0, 0x81)])) (fun t => t.reg 0 == 2 && t.reg vf == 1) = true := by decide +kernel

/-- V64: a step under a random source that answers 0xA7. -/
theorem test_rnd_masks_the_draw :
    gives (stepWith { Config.hardware with rand := fun _ => 0xA7 } (State.reset.withFetchWord 16 0xC30F))
      (fun t => t.reg 3 == 7 && t.draws == 1 && t.pc == 0x202) = true := by decide +kernel

/-- V65: whatever the draw. -/
theorem test_rnd_of_no_bits (r : Byte) : ∃ t, execRndDraw r 3 0 State.reset = .next t ∧ t.reg 3 = 0 :=
  ⟨_, rfl, by simp⟩

/-! ### Index register and memory -/

/-- V67. -/
theorem test_ld_i : gives (on 0xAFFF State.reset) (fun t => t.I == 0xFFF && t.pc == 0x202) = true := by decide +kernel

/-- V70: I wraps, and the flag is of the full sum. -/
theorem test_add_i_wraps : gives (on 0xF01E (atI (withRegs [(0, 1)]) 0xFFFF [])) (fun t => t.I == 0 && t.reg vf == 1) = true := by
  decide +kernel

/-- V72: the old VF is the addend, and VF ends as the flag. -/
theorem test_add_i_vf : gives (on 0xFF1E (atI (withRegs [(15, 0x10)]) 0x100 [])) (fun t => t.I == 0x110 && t.reg vf == 0) = true := by
  decide +kernel

/-- V74: the register is not masked. -/
theorem test_ld_f : gives (on 0xFA29 (withRegs [(10, 0xFF)])) (fun t => t.I == 0x4FB) = true := by decide +kernel

/-- S11, at V79's place: the last three bytes. -/
theorem test_ld_b : gives (on 0xF033 (atI (withRegs [(0, 157)]) 0xFFD []))
    (fun t => t.mem.read 0xFFD == 1 && t.mem.read 0xFFE == 5 && t.mem.read 0xFFF == 7 && t.I == 0xFFD) = true := by decide +kernel

/-- V81. -/
theorem test_ld_b_in_the_font : stops (on 0xF033 (atI (withRegs [(0, 1)]) 0x04E [])) (.fontWrite 0x04E) = true := by decide +kernel

/-- V82. -/
theorem test_ld_mem_vx : gives (on 0xF255 (atI (withRegs [(0, 1), (1, 2), (2, 3), (3, 4)]) 0x300 []))
    (fun t => t.mem.read 0x300 == 1 && t.mem.read 0x301 == 2 && t.mem.read 0x302 == 3 && t.mem.read 0x303 == 0 &&
      t.I == 0x303) = true := by decide +kernel

/-- V85. -/
theorem test_ld_mem_vx_beyond_memory : stops (on 0xF255 (atI State.reset 0xFFE [])) (.outOfBounds 0x1000) = true := by
  decide +kernel

/-- V87. -/
theorem test_ld_vx_mem : gives (on 0xF265 (atI (withRegs [(3, 4)]) 0x300 [9, 8, 7, 6]))
    (fun t => t.reg 0 == 9 && t.reg 1 == 8 && t.reg 2 == 7 && t.reg 3 == 4 && t.I == 0x303) = true := by decide +kernel

/-- V88: the font can be read. -/
theorem test_ld_vx_mem_font : gives (on 0xF165 State.reset) (fun t => t.reg 0 == 0xF0 && t.reg 1 == 0x90 && t.I == 2) = true := by
  decide +kernel

/-! ### Keypad and timers -/

/-- V91. -/
theorem test_skp : gives (on 0xE59E (withKeys (withRegs [(5, 7)]) [7])) (fun t => t.pc == 0x204 && t.key[7]) = true := by
  decide +kernel

/-- V95. -/
theorem test_skp_out_of_range : stops (on 0xE59E (withRegs [(5, 0x10)])) (.keyOutOfBounds 0x10) = true := by decide +kernel

/-- V93. -/
theorem test_sknp : gives (on 0xE5A1 (withRegs [(5, 7)])) (fun t => t.pc == 0x204) = true := by decide +kernel

/-- V94. -/
theorem test_sknp_pressed : gives (on 0xE5A1 (withKeys (withRegs [(5, 7)]) [7])) (fun t => t.pc == 0x202) = true := by
  decide +kernel

/-- V98. -/
theorem test_ld_vx_dt : gives (on 0xF307 (State.reset.setDT 0x3C)) (fun t => t.reg 3 == 0x3C && t.DT == 0x3C) = true := by
  decide +kernel

/-- V99. -/
theorem test_ld_vx_k_waits : stepReport Config.hardware (State.reset.withFetchWord 16 0xF30A) = .waiting := by decide +kernel

/-- V101: the lowest pressed. -/
theorem test_ld_vx_k : gives (on 0xF30A (withKeys State.reset [12, 3, 5]))
    (fun t => t.reg 3 == 3 && t.pc == 0x202 && t.key[3]) = true := by decide +kernel

/-- V102. -/
theorem test_ld_dt_vx : gives (on 0xF315 (withRegs [(3, 0x3C)])) (fun t => t.DT == 0x3C && t.ST == 0) = true := by decide +kernel

/-- V103. -/
theorem test_ld_st_vx : gives (on 0xF318 (withRegs [(3, 1)])) (fun t => t.ST == 1 && t.DT == 0 && !t.beep) = true := by decide +kernel

/-! ### Steps that run no instruction, and the host -/

/-- V35. -/
theorem test_fetch_at_the_last_byte : stops (step (State.reset.setPc 0xFFF)) (.outOfBounds 0x1000) = true := by decide +kernel

/-- V32's next step. -/
theorem test_fetch_beyond_memory : stops (step (State.reset.setPc 0x10FE)) (.outOfBounds 0x10FE) = true := by decide +kernel

/-- T13. -/
theorem test_step_before_any_load : stops (step State.reset) (.unknownOpcode 0x0000 0x200) = true := by decide +kernel

/-- T12. -/
theorem test_unknown_word_skipped :
    stepReport { Config.hardware with unknownOpcode := .skip } (State.reset.withFetchWord 16 0x5121) =
      .progressed ((State.reset.withFetchWord 16 0x5121).setPc 0x202) (some 0x5121) := by decide +kernel

/-- P7's third step: a byte stored into the program is fetched by the next step. -/
theorem test_store_is_fetched :
    gives (on 0xF055 (atI (withRegs [(0, 0x12)]) 0x202 [0x00, 0x08])) (fun t => gives (step t) fun u => u.pc == 0x208) = true := by
  decide +kernel

/-- T2. -/
theorem test_tick : (let t := tickTimers ((State.reset.setDT 5).setST 1); t.DT = 4 ∧ t.ST = 0 ∧ beepPending t = true) := by
  decide +kernel

/-- T1. -/
theorem test_tick_at_zero : tickTimers State.reset = State.reset := by decide +kernel

/-- T10: one byte too many. -/
theorem test_load_too_large : (hostOp Config.hardware (.load (List.replicate 3585 0)) State.reset).2 = .failed (.programTooLarge 3585) := by
  decide +kernel

/-- P4's program, loaded: the bytes lie high byte first, and nothing after them changes. -/
theorem test_load : (load [0x22, 0x00, 0x13] State.reset).map (fun t => (t.mem.read 0x200, t.mem.read 0x202, t.mem.read 0x203, t.pc)) =
    .ok (0x22, 0x13, 0, 0x200) := by decide +kernel

/-- T6. -/
theorem test_press_out_of_range : (hostOp Config.hardware (.press 16) State.reset).2 = .failed (.keyIndexOutOfRange 16) := by
  decide +kernel

/-- T7. -/
theorem test_release : (hostOp Config.hardware (.release 4) (withKeys State.reset [4])).1 = State.reset := by decide +kernel

/-! ### Witnesses: the hypotheses of every obligation that has some, met together -/

/-- Memory, font and bounds of a state with an instruction placed at reset's pc. -/
theorem placed_inv : (State.reset.withFetchWord 16 0x6A42).Inv :=
  ⟨by decide +kernel, by unfold State.fontIntact; decide +kernel, by decide +kernel, by decide +kernel⟩

theorem witness_EncodeOfDecodeIsTheWord : decodeWord 0xFFFF = none ∧ decodeWord 0xFF65 = some (.ldVxMem 15) := by decide

/-- A word of each clause of the table, and the recognised word beside it. -/
theorem witness_UnrecognisedWordsAreThoseOfTheTable :
    (decodeWord 0x00E1 = none ∧ decodeWord 0x5FF1 = none ∧ decodeWord 0x8FFF = none ∧ decodeWord 0x9FFF = none ∧
      decodeWord 0xEFA2 = none ∧ decodeWord 0xFF66 = none) ∧
    (decodeWord 0x00E0).isSome ∧ (decodeWord 0x5FF0).isSome ∧ (decodeWord 0x8FFE).isSome ∧ (decodeWord 0x9FF0).isSome ∧
      (decodeWord 0xEFA1).isSome ∧ (decodeWord 0xFF65).isSome := by decide

theorem witness_WordMatchesOneRow :
    decodeWord 0x812E = some (.shl 1 2) ∧ (Instr.row (.shl 0 0)) ∈ opcodeTable ∧
    (Instr.row (.shl 0 0)).matchesWord 0x812E = true := by decide

/-- The last address an instruction can be fetched at. -/
theorem witness_StepRunsTheDecodedInstruction :
    ((State.reset.setPc 0xFFE).withFetchWord 16 0x00E0).fetches 0x00E0 ∧ decodeWord 0x00E0 = some .cls ∧
    (∃ t, step ((State.reset.setPc 0xFFE).withFetchWord 16 0x00E0) = .next t) ∧
    ((State.reset.setPc 0xFFE).withFetchWord 16 0x00E0).waiting = false :=
  ⟨⟨by decide +kernel, by decide +kernel⟩, by decide, ⟨_, rfl⟩, by decide +kernel⟩

theorem witness_PlacedInstructionIsRun : decodeTableWord 16 0x6A42 = some (.ldImm 0xA 0x42) := by decide

theorem witness_FetchBeyondMemoryFaults :
    4095 ≤ (State.reset.setPc 4095).pc.toNat ∧ 4095 ≤ (State.reset.setPc 4096).pc.toNat := by decide +kernel

theorem witness_UnknownWordHaltsOrIsSkipped :
    State.reset.fetches 0x0000 ∧ decodeWord 0x0000 = none ∧ Config.hardware.unknownOpcode = .halt ∧
    ({ Config.hardware with unknownOpcode := .skip } : Config).unknownOpcode = .skip :=
  ⟨⟨by decide +kernel, by decide +kernel⟩, by decide, rfl, rfl⟩

/-- A word under each mask the encodings are stated with. -/
theorem witness_decodesUnder :
    (0x6A42#16 &&& 0xF000 = 0x6000 ∧ 0x8120#16 &&& 0xF00F = 0x8000 ∧ 0x7FED#16 &&& 0xF000 = 0x7000) ∧
    (0x8341#16 &&& 0xF00F = 0x8001 ∧ 0x8562#16 &&& 0xF00F = 0x8002 ∧ 0x8783#16 &&& 0xF00F = 0x8003) ∧
    (0x3A5C#16 &&& 0xF000 = 0x3000 ∧ 0x4B7E#16 &&& 0xF000 = 0x4000 ∧ 0x5CD0#16 &&& 0xF00F = 0x5000 ∧
      0x9EF0#16 &&& 0xF00F = 0x9000 ∧ 0x1ABC#16 &&& 0xF000 = 0x1000 ∧ 0xB123#16 &&& 0xF000 = 0xB000) ∧
    (0x2DEF#16 &&& 0xF000 = 0x2000 ∧ 0x00EE#16 &&& 0xFFFF = 0x00EE ∧ 0x00E0#16 &&& 0xFFFF = 0x00E0 ∧
      0xD7A3#16 &&& 0xF000 = 0xD000 ∧ 0xA987#16 &&& 0xF000 = 0xA000) ∧
    (0xF229#16 &&& 0xF0FF = 0xF029 ∧ 0xF565#16 &&& 0xF0FF = 0xF065 ∧ 0xF807#16 &&& 0xF0FF = 0xF007 ∧
      0xFA15#16 &&& 0xF0FF = 0xF015 ∧ 0xFB18#16 &&& 0xF0FF = 0xF018) ∧
    (0x89A4#16 &&& 0xF00F = 0x8004 ∧ 0x8BC5#16 &&& 0xF00F = 0x8005 ∧ 0x8DE6#16 &&& 0xF00F = 0x8006 ∧
      0x8F07#16 &&& 0xF00F = 0x8007 ∧ 0x812E#16 &&& 0xF00F = 0x800E ∧ 0xC5F0#16 &&& 0xF000 = 0xC000) ∧
    (0xF11E#16 &&& 0xF0FF = 0xF01E ∧ 0xF333#16 &&& 0xF0FF = 0xF033 ∧ 0xF455#16 &&& 0xF0FF = 0xF055 ∧
      0xE69E#16 &&& 0xF0FF = 0xE09E ∧ 0xE7A1#16 &&& 0xF0FF = 0xE0A1 ∧ 0xF90A#16 &&& 0xF0FF = 0xF00A) := by decide

/-- A destination that is not VF, with a sum at the bound on each side of the carry. -/
theorem witness_AddWithCarry :
    (0 : Reg) ≠ vf ∧ ((withRegs [(0, 254), (1, 1)]).reg 0).toNat + ((withRegs [(0, 254), (1, 1)]).reg 1).toNat = 255 ∧
    ((withRegs [(0, 255), (1, 1)]).reg 0).toNat + ((withRegs [(0, 255), (1, 1)]).reg 1).toNat = 256 := by decide +kernel

/-- A destination that is not VF, and a minuend below, at and above the subtrahend. -/
theorem witness_SubtractWithNoBorrow :
    (0 : Reg) ≠ vf ∧ (withRegs [(0, 4), (1, 5)]).reg 0 < (withRegs [(0, 4), (1, 5)]).reg 1 ∧
    (withRegs [(0, 5), (1, 5)]).reg 0 = (withRegs [(0, 5), (1, 5)]).reg 1 ∧
    (withRegs [(0, 6), (1, 5)]).reg 1 < (withRegs [(0, 6), (1, 5)]).reg 0 := by decide +kernel

theorem witness_ShiftsOfVx : (0 : Reg) ≠ vf ∧ (14 : Reg) ≠ vf := by decide

theorem witness_ShiftsUnderEitherSource :
    (0 : Reg) ≠ vf ∧ Config.hardware.shiftSrc = .vx ∧ ({ Config.hardware with shiftSrc := .vy } : Config).shiftSrc = .vy := by
  decide

/-- Equal and unequal, and a skip taken at 0xFFC. -/
theorem witness_ImmediateSkips :
    (withRegs [(3, 0x12)]).reg 3 = 0x12 ∧ (withRegs [(3, 0x12)]).reg 3 ≠ 0x13 ∧
    4095 ≤ ((State.reset.setPc 0xFFC).skipIf true).pc.toNat := by decide +kernel

theorem witness_RegisterSkips :
    (withRegs [(1, 7), (2, 7)]).reg 1 = (withRegs [(1, 7), (2, 7)]).reg 2 ∧
    (withRegs [(1, 7), (2, 8)]).reg 1 ≠ (withRegs [(1, 7), (2, 8)]).reg 2 := by decide +kernel

/-- The lowest target whose fetch faults, of each jump. -/
theorem witness_Jumps :
    4095 ≤ (0xFFF : Addr12).toNat ∧ 4095 ≤ (0xF00 : Addr12).toNat + ((withRegs [(0, 0xFF)]).reg 0).toNat := by decide +kernel

/-- The last free entry, and none free. -/
theorem witness_CallPushesItsOwnAddress :
    (withStack State.reset 15 0).sp.val < 16 ∧ (withStack State.reset 16 0).sp.val = 16 := by decide

/-- One entry in use, all of them, and none. -/
theorem witness_ReturnPopsPlusTwo :
    (withStack State.reset 1 0).sp.val = (0 : Fin 16).val + 1 ∧ (withStack State.reset 16 0).sp.val = (15 : Fin 16).val + 1 ∧
    State.reset.sp.val = 0 := by decide

theorem witness_ReturnAfterCallResumesAfterIt :
    ∃ t u : State, exec (.call 0x300) State.reset = .next t ∧ u.stack = t.stack ∧ u.sp = t.sp := ⟨_, _, rfl, rfl, rfl⟩

/-- The lowest and the highest I that FX33 stores at. -/
theorem witness_BcdStoresThreeDigits :
    (0x050 ≤ (State.reset.setI 0x050).I.toNat ∧ (State.reset.setI 0x050).I.toNat + 2 ≤ 4095) ∧
    0x050 ≤ (State.reset.setI 0xFFD).I.toNat ∧ (State.reset.setI 0xFFD).I.toNat + 2 ≤ 4095 := by decide +kernel

/-- The lowest and the highest I that FX55 stores all registers at. -/
theorem witness_StoreRegistersAtIndex :
    (0x050 ≤ (State.reset.setI 0x050).I.toNat ∧ (State.reset.setI 0x050).I.toNat + (15 : Reg).val ≤ 4095) ∧
    0x050 ≤ (State.reset.setI 0xFF0).I.toNat ∧ (State.reset.setI 0xFF0).I.toNat + (15 : Reg).val ≤ 4095 ∧
    (3 : Reg).val ≤ (15 : Reg).val := by decide +kernel

/-- The lowest I of each range clause, and the highest in the font. -/
theorem witness_StoresFaultBeyondMemoryAndOnTheFont :
    4095 < (State.reset.setI 0xFFE).I.toNat + 2 ∧ 4095 < (State.reset.setI 0xFF1).I.toNat + (15 : Reg).val ∧
    (State.reset.setI 0x04F).I.toNat < 0x050 := by decide +kernel

theorem witness_UnprotectedStoresWriteTheFont :
    ({ Config.hardware with fontProtect := false } : Config).fontProtect = false ∧
    (State.reset.setI 0x000).I.toNat + 2 ≤ 4095 ∧ (State.reset.setI 0xFF0).I.toNat + (15 : Reg).val ≤ 4095 := by decide +kernel

/-- The highest I that FX65 loads all registers from, and the next. -/
theorem witness_LoadRegistersFromIndex :
    (State.reset.setI 0xFF0).I.toNat + (15 : Reg).val ≤ 4095 ∧ 4095 < (State.reset.setI 0xFF1).I.toNat + (15 : Reg).val := by
  decide +kernel

theorem witness_LoadAfterStoreGivesTheRegistersBack :
    ∃ t u : State, exec (.ldMemVx 2) (atI (withRegs [(0, 7)]) 0x300 []) = .next t ∧ u.mem = t.mem ∧
      u.I = (atI (withRegs [(0, 7)]) 0x300 []).I ∧ (2 : Reg).val ≤ (2 : Reg).val :=
  ⟨_, (State.reset.setMem _).setI 0x300, rfl, rfl, rfl, Nat.le_refl _⟩

theorem witness_StoredBytesAreTheNextInstruction :
    ∃ t u : State, 1 ≤ (1 : Reg).val ∧ exec (.ldMemVx 1) (atI (withRegs [(0, 0x6A), (1, 0x42)]) 0x300 []) = .next t ∧
      u.mem = t.mem ∧ u.pc = (atI (withRegs [(0, 0x6A), (1, 0x42)]) 0x300 []).I ∧
      decodeWord (wordOfBytes ((withRegs [(0, 0x6A), (1, 0x42)]).reg 0) ((withRegs [(0, 0x6A), (1, 0x42)]).reg 1)) =
        some (.ldImm 0xA 0x42) :=
  ⟨_, (State.reset.setMem _).setPc 0x300, by decide, rfl, rfl, rfl, by decide +kernel⟩

/-- No rows at an I beyond memory, the longest sprite at the highest I it fits at, and the next I; a sprite
that collides and one that does not. -/
theorem witness_DrawXorsTheSpriteWrapping :
    ((0 : RowCount).val = 0 ∧ (15 : RowCount).val ≠ 0) ∧
    (State.reset.setI 0xFF1).I.toNat + (15 : RowCount).val - 1 ≤ 4095 ∧
    4095 < (State.reset.setI 0xFF2).I.toNat + (15 : RowCount).val - 1 ∧
    (atI (State.reset.setFrame 1) 0x300 [0x80]).spriteCollides 0 0 1 ∧
    ¬ (atI State.reset 0x300 [0x80]).spriteCollides 0 0 1 :=
  ⟨by decide, by decide +kernel, by decide +kernel, ⟨0, by decide +kernel, by decide +kernel, by decide +kernel⟩,
    fun ⟨p, _, hp, _⟩ => by simp [atI, State.reset, Framebuffer.pixel] at hp⟩

theorem witness_DrawingTwiceRestoresTheFrame :
    let s := atI State.reset 0x300 [0x80]
    ∃ t u : State, exec (.drw 0 1 1) s = .next t ∧ u.fb = t.fb ∧ u.mem = s.mem ∧ u.I = s.I ∧ u.reg 2 = s.reg 0 ∧
      u.reg 3 = s.reg 1 ∧ s.fb = 0 ∧
      ∃ r b, r < (1 : RowCount).val ∧ b < 8 ∧ (s.mem.read (s.I.toNat + r)).getLsbD b = true :=
  have ⟨t, ht⟩ : ∃ t, exec (.drw 0 1 1) (atI State.reset 0x300 [0x80]) = .next t := ⟨_, rfl⟩
  ⟨t, { atI State.reset 0x300 [0x80] with fb := t.fb }, ht, rfl, rfl, rfl, rfl, rfl, rfl, 0, 7, by decide, by decide,
    by decide +kernel⟩

/-- The highest key, and the lowest index that names none. -/
theorem witness_KeySkips :
    ((withRegs [(5, 15)]).reg 5).toNat = (15 : KeyIndex).val ∧ 15 < ((withRegs [(5, 16)]).reg 5).toNat := by decide +kernel

theorem witness_WaitingIsFx0aWithNoKey :
    stepReport Config.hardware (State.reset.withFetchWord 16 0xF30A) = .waiting ∧
    (State.reset.withFetchWord 16 0xF30A).fetches 0xF30A ∧ decodeWord 0xF30A = some (.ldVxK 3) ∧
    ∀ k : KeyIndex, (State.reset.withFetchWord 16 0xF30A).key[k.val] = false :=
  ⟨by decide +kernel, ⟨by decide +kernel, by decide +kernel⟩, by decide, by decide +kernel⟩

theorem witness_KeyWaitTakesTheLowestPressed :
    ((withKeys State.reset [3, 5]).key[(3 : KeyIndex).val] = true ∧
      ∀ j : KeyIndex, j.val < (3 : KeyIndex).val → (withKeys State.reset [3, 5]).key[j.val] = false) ∧
    ∀ k : KeyIndex, State.reset.key[k.val] = false := by decide +kernel

theorem witness_KeyWaitUnderEveryConfiguration :
    (∃ k : KeyIndex, (withKeys State.reset [15]).key[k.val] = true) ∧
    ({ Config.hardware with fx0aSelect := .anyPressed, fx0aClearsLatch := true } : Config).fx0aClearsLatch = true :=
  ⟨⟨15, by decide +kernel⟩, rfl⟩

/-- The last byte of the font, the first after it, and the last of memory. -/
theorem witness_ResetValues :
    standardFont.getD 0x04F 0 = 0x80 ∧ State.reset.mem.read 0x04F = 0x80 ∧ State.reset.mem.read 0x050 = 0 ∧
    State.reset.mem.read 0xFFF = 0 := by decide +kernel

theorem witness_UnspecifiedResetSetsOnlyPcAndFont :
    ({ Config.hardware with resetPolicy := .unspecified } : Config).resetPolicy = .unspecified ∧
    ({ Config.hardware with resetPolicy := .unspecified } : Config).wellFormed = true := by decide

theorem witness_StepKeepsTheInvariant :
    ∃ t, (State.reset.withFetchWord 16 0x6A42).Inv ∧ step (State.reset.withFetchWord 16 0x6A42) = .next t :=
  ⟨_, placed_inv, rfl⟩

theorem witness_EveryReachableStateHasTheInvariant : (State.reset.withFetchWord 16 0x6A42).Inv := placed_inv

theorem witness_NoInstructionWritesTheFont : ∃ t, exec (.ldBVx 0) (State.reset.setI 0x050) = .next t ∧ 0x04F < 0x050 :=
  ⟨_, rfl, by decide⟩

/-- An instruction that changes a register as its destination, one that changes VF as its flag, and one that
changes each part some instruction can change. -/
theorem witness_WritersOfEachPart :
    (∃ t, exec (.ldVxMem 1) State.reset = .next t ∧ t.reg 1 ≠ State.reset.reg 1) ∧
    (∃ t, exec (.subReg 0 1) State.reset = .next t ∧ t.reg vf ≠ State.reset.reg vf) ∧
    (∃ t, exec (.rnd 0 0) State.reset = .next t ∧ ¬ Part.same State.reset t .draws) ∧
    (∃ t, exec .cls State.reset = .next t) ∧
    (∃ t, exec (.ldI 0x300) State.reset = .next t ∧ ¬ Part.same State.reset t .index) ∧
    (∃ t, exec (.call 0x300) State.reset = .next t ∧ ¬ Part.same State.reset t .stack ∧ ¬ Part.same State.reset t .sp) ∧
    (∃ t, exec (.ldDtVx 0) (withRegs [(0, 1)]) = .next t ∧ ¬ Part.same (withRegs [(0, 1)]) t .delay) ∧
    (∃ t, exec (.ldStVx 0) (withRegs [(0, 1)]) = .next t ∧ ¬ Part.same (withRegs [(0, 1)]) t .sound) ∧
    (∃ t, exec (.drw 0 0 1) State.reset = .next t ∧ ¬ Part.same State.reset t .pixels ∧ ¬ Part.same State.reset t .dirty) ∧
    ∃ t, exec (.ldBVx 0) ((withRegs [(0, 1)]).setI 0x300) = .next t ∧ ¬ Part.same ((withRegs [(0, 1)]).setI 0x300) t .memory :=
  ⟨⟨_, rfl, by decide +kernel⟩, ⟨_, rfl, by decide +kernel⟩,
    ⟨_, rfl, fun h => absurd (show (1 : Nat) = 0 from h) (by decide)⟩, ⟨_, rfl⟩,
    ⟨_, rfl, fun h => absurd (show (_ : Word) = _ from h) (by decide +kernel)⟩,
    ⟨_, rfl, fun h => absurd (show (_ : Vector Word 16) = _ from h) (by decide +kernel),
      fun h => absurd (show (_ : Fin 17) = _ from h) (by decide +kernel)⟩,
    ⟨_, rfl, fun h => absurd (show (_ : Byte) = _ from h) (by decide +kernel)⟩,
    ⟨_, rfl, fun h => absurd (show (_ : Byte) = _ from h) (by decide +kernel)⟩,
    ⟨_, rfl, fun h => absurd (show (_ : Framebuffer) = _ from h) (by decide +kernel),
      fun h => absurd (show (_ : Bool) = _ from h) (by decide +kernel)⟩,
    ⟨_, rfl, fun h => absurd (h 0x302) (by decide +kernel)⟩⟩

/-- A next state under each clause: the jumps, the call and the return, a skip on registers and one on a key,
FX0A without a key and with one, and an instruction of the last clause. -/
theorem witness_PcAfterAnInstruction :
    (∃ t, exec (.jp 0x300) State.reset = .next t) ∧ (∃ t, exec (.call 0x300) State.reset = .next t) ∧
    (∃ t, exec (.jpV0 0x300) State.reset = .next t) ∧ (∃ t, exec .ret (withStack State.reset 1 0x300) = .next t) ∧
    (∃ t, exec (.seImm 0 0) State.reset = .next t) ∧ (∃ t, exec (.sneReg 0 1) State.reset = .next t) ∧
    (∃ t, exec (.skp 0) State.reset = .next t) ∧
    ((∃ t, exec (.ldVxK 0) State.reset = .next t) ∧ ∀ k : KeyIndex, State.reset.key[k.val] = false) ∧
    ((∃ t, exec (.ldVxK 0) (withKeys State.reset [15]) = .next t) ∧
      (withKeys State.reset [15]).key[(15 : KeyIndex).val] = true) ∧
    ∃ t, exec .cls State.reset = .next t :=
  ⟨⟨_, rfl⟩, ⟨_, rfl⟩, ⟨_, rfl⟩, ⟨_, rfl⟩, ⟨_, rfl⟩, ⟨_, rfl⟩, ⟨_, rfl⟩, ⟨⟨_, rfl⟩, by decide +kernel⟩,
    ⟨⟨_, rfl⟩, by decide +kernel⟩, ⟨_, rfl⟩⟩

/-- A fault of each kind an instruction raises. -/
theorem witness_FaultsAreRaisedOnlyWhereListed :
    exec (.drw 0 0 2) (State.reset.setI 0xFFF) = .fault (.outOfBounds 4096) ∧
    exec (.call 0x300) (withStack State.reset 16 0) = .fault (.stackOverflow 0x200) ∧
    exec .ret State.reset = .fault (.stackUnderflow 0x200) ∧
    exec (.skp 5) (withRegs [(5, 16)]) = .fault (.keyOutOfBounds 16) ∧
    exec (.ldMemVx 0) (State.reset.setI 0x04F) = .fault (.fontWrite 0x04F) := ⟨rfl, rfl, rfl, rfl, rfl⟩

theorem witness_FaultRepeatsUntilLoadOrReset :
    stepReport Config.hardware State.reset = .fault (.unknownOpcode 0 0x200) ∧
    ∀ op ∈ [HostOp.tickTimers, HostOp.press 3, HostOp.step], (∀ rom, op ≠ .load rom) ∧ ∀ powerUp, op ≠ .reset powerUp :=
  ⟨by decide +kernel, by simp⟩

theorem witness_FirstFaultIsNeverCleared :
    (⟨State.reset, some (.stackOverflow 0x200)⟩ : Run).firstFault = some (.stackOverflow 0x200) := rfl

theorem witness_ProgramCannotSeeHostOnlyState :
    sameToTheProgram State.reset { State.reset with ST := 1, beep := true, dirty := true } := rfl

/-- Two states that differ in a stack entry, with another in use. -/
theorem witness_ProgramCannotSeeUnusedStackEntries :
    sameBelowSp { State.reset with sp := 1 } { State.reset with sp := 1, stack := State.reset.stack.set 1 0x300 } :=
  ⟨rfl, by decide +kernel⟩

/-- A self-loop at reset's pc, and at the last address one can stand at. -/
theorem witness_SelfLoopChangesNothing :
    (State.reset.withFetchWord 16 0x1200).selfLoop = true ∧
    ((State.reset.setPc 0xFFE).withFetchWord 16 0x1FFE).selfLoop = true := by decide +kernel

/-- The largest ROM that fits, and the smallest that does not. -/
theorem witness_LoadCopiesTheProgram :
    (List.replicate 3584 (1 : Byte)).length ≤ 3584 ∧ 3584 < (List.replicate 3585 (1 : Byte)).length ∧
    0 < (List.replicate 3584 (1 : Byte)).length := by simp only [List.length_replicate]; decide

theorem witness_PressAndReleaseWriteOneLatch : 15 < 16 ∧ 16 ≤ 16 := by decide

end Sys2Proof.Tests
end

/-! A store is seen by the next fetch (`20_memory.md` R76). -/

namespace Sys2Proof.Machine

open Sys2Proof

/-- Where the word at `pc` decodes, `step` is `exec` of the instruction it decodes to (R66). -/
theorem step_of_fetches {s : State} {w : Word} {i : Instr} (hw : s.fetches w) (hi : decodeWord w = some i) :
    step s = exec i s := by
  simp only [step, stepVia, (fetchWord_eq_ok s w).mpr hw, hi]

/-- What FX55 stores reads back: `V[k]` at `I + k`, for every `k` up to `x` (R204). -/
theorem read_exec_ldMemVx {x k : Reg} {s t : State} (h : exec (.ldMemVx x) s = .next t) (hk : k.val ≤ x.val) :
    t.mem.read (s.I.toNat + k.val) = s.reg k := by
  obtain ⟨-, -, rfl⟩ := exec_ldMemVx_next h
  have hlen : k.val < (s.regsUpTo x).length := by rw [length_regsUpTo]; omega
  simp only [State.done_mem, State.bumpI_mem, State.setMem_mem, Memory.read_writeBytes_inside _ _ hlen,
    getElem_regsUpTo]

/-- After FX55 with `x` at least 1, a fetch where the store began gives the word of V0 and V1, V0 its high byte
(R63): the range FX55 checked holds both bytes. -/
theorem fetches_exec_ldMemVx {x : Reg} {s t u : State} (hx : 1 ≤ x.val) (h : exec (.ldMemVx x) s = .next t)
    (hmem : u.mem = t.mem) (hpc : u.pc = s.I) : u.fetches (wordOfBytes (s.reg 0) (s.reg 1)) := by
  obtain ⟨-, hrange, -⟩ := exec_ldMemVx_next h
  have high : t.mem.read s.I.toNat = s.reg 0 := read_exec_ldMemVx (k := 0) h (Nat.zero_le _)
  have low : t.mem.read (s.I.toNat + 1) = s.reg 1 := read_exec_ldMemVx (k := 1) h hx
  rw [State.fetches, hmem, hpc, high, low]
  exact ⟨show s.I.toNat + 1 < 4096 by omega, rfl⟩

/-- Settles O33: the fetch reads the bytes FX55 stored, and the step runs what they decode to. -/
theorem storedBytesAreTheNextInstruction : Obligations.StoredBytesAreTheNextInstruction :=
  fun _ _ _ _ _ hx h hmem hpc hi => step_of_fetches (fetches_exec_ldMemVx hx h hmem hpc) hi

end Sys2Proof.Machine

/-! Clearing the display and drawing on it twice (`40_display.md` R120, R123). -/

namespace Sys2Proof.Machine

open Sys2Proof

/-! ### 00E0 -/

/-- Replacing the frame and completing leaves every register and every part but the pixels and `dirty`. -/
theorem unchangedBut_setFrame_done (s : State) (fb : Framebuffer) :
    unchangedBut [] [.pixels, .dirty] s (s.setFrame fb).done := by
  refine ⟨fun r _ => rfl, fun p hp => ?_⟩
  cases p with
  | pixels | dirty => simp at hp
  | memory => exact fun _ => rfl
  | _ => rfl

/-- All sixteen digits of 00E0 are fixed (D3), so it is the one word under its pattern. -/
theorem decodesUnder_cls : decodesUnder 0xFFFF 0x00E0 fun _ => .cls := by
  intro w hw
  have hall : w = 0x00E0 := BitVec.eq_of_toNat_eq (by rw [← toNat_and_FFFF w, hw])
  rw [hall]
  decide

/-- Settles O34: the frame 00E0 writes has no lit pixel, and the write raises `dirty`. -/
theorem clearBlanksEveryPixel : Obligations.ClearBlanksEveryPixel :=
  ⟨decodesUnder_cls, fun s =>
    ⟨_, rfl, fun _ _ => BitVec.getLsbD_zero, rfl, rfl, unchangedBut_setFrame_done s 0⟩⟩

/-! ### DXYN twice -/

/-- XOR is its own inverse: a sprite drawn twice at one place leaves the framebuffer as it was (R123). -/
theorem drawSprite_twice_fst {xs ys : Nat} {rows : List Byte} (hr : rows.length ≤ 32) (fb : Framebuffer) :
    (drawSprite xs ys rows (drawSprite xs ys rows fb).1).1 = fb :=
  Framebuffer.ext_pixel fun q _ => by
    rw [(drawSprite_spec hr _).1, (drawSprite_spec hr fb).1, Bool.xor_assoc, Bool.xor_self, Bool.xor_false]

/-- On a clear framebuffer there is no lit pixel to collide with (R123). -/
theorem drawSprite_snd_of_clear {xs ys : Nat} {rows : List Byte} {fb : Framebuffer} (hr : rows.length ≤ 32)
    (hclear : fb = 0) : (drawSprite xs ys rows fb).2 = false := by
  rw [← Bool.not_eq_true, (drawSprite_spec hr fb).2]
  rintro ⟨q, -, hq⟩
  simp [Framebuffer.pixel, hclear] at hq

/-- Drawn again where it was drawn on a clear framebuffer, a sprite with a set bit collides with itself (R123). -/
theorem drawSprite_twice_snd_of_clear {xs ys q : Nat} {rows : List Byte} {fb : Framebuffer} (hr : rows.length ≤ 32)
    (hclear : fb = 0) (hq : q ∈ spritePixels xs ys 0 rows) :
    (drawSprite xs ys rows (drawSprite xs ys rows fb).1).2 = true := by
  refine (drawSprite_spec hr _).2.mpr ⟨q, hq, ?_⟩
  rw [(drawSprite_spec hr fb).1]
  simp [Framebuffer.pixel, hclear, hq]

/-- A set bit in the bytes at I is a pixel of the sprite, wherever it is drawn. -/
theorem exists_mem_spritePixels {s : State} {n r b : Nat} (xs ys : Nat) (hr : r < n) (hb : b < 8)
    (hbit : (s.mem.read (s.I.toNat + r)).getLsbD b = true) : ∃ q, q ∈ spritePixels xs ys 0 (s.bytesAtI n) := by
  refine ⟨_, (mem_spritePixels ..).mpr ⟨r, by simpa using hr, 7 - b, by omega, ?_, rfl⟩⟩
  rw [getElem_bytesAtI, spriteBit, show 7 - (7 - b) = b by omega, hbit]

/-- A sprite of DXYN has at most 15 rows (R93), so no two of its rows wrap onto each other. -/
theorem length_bytesAtI_rowCount_le (s : State) (n : RowCount) : (s.bytesAtI n.val).length ≤ 32 := by
  rw [length_bytesAtI]
  omega

theorem bytesAtI_congr {s u : State} (hmem : u.mem = s.mem) (hI : u.I = s.I) (len : Nat) :
    u.bytesAtI len = s.bytesAtI len := by
  simp only [State.bytesAtI, State.ea, hmem, hI]

/-- DXYN completes where its rows are in memory, N = 0 with no rows among them (R124; D16). -/
theorem exec_drw_of_le {n : RowCount} {s : State} (x y : Reg) (h : n.val = 0 ∨ s.I.toNat + n.val ≤ 4096) :
    ∃ d, d = drawSprite (s.reg x).toNat (s.reg y).toNat (s.bytesAtI n.val) s.fb ∧
      exec (.drw x y n) s = .next ((s.setFrame d.1).setFlag d.2).done :=
  ⟨_, rfl, guardRange_of_le _ h⟩

/-- Settles O36: both draws are of one sprite at one place, so the second undoes the first, and on a clear
framebuffer collides exactly with it. -/
theorem drawingTwiceRestoresTheFrame : Obligations.DrawingTwiceRestoresTheFrame := by
  intro x y x' y' n s t u h hfb hmem hI hx hy
  obtain ⟨hin, d, rfl, rfl⟩ := exec_drw_next h
  obtain ⟨e, he, hexec⟩ := exec_drw_of_le x' y' (hI ▸ hin)
  have hlen := length_bytesAtI_rowCount_le s n
  rw [hfb, hx, hy, bytesAtI_congr hmem hI] at he
  simp only [State.done_fb, State.setFlag_fb, State.setFrame_fb] at he
  subst he
  refine ⟨_, hexec, drawSprite_twice_fst hlen s.fb, fun hclear => ⟨?_, ?_⟩⟩
  · simp [drawSprite_snd_of_clear hlen hclear]
  · rintro ⟨r, b, hr, hb, hbit⟩
    obtain ⟨q, hq⟩ := exists_mem_spritePixels (s.reg x).toNat (s.reg y).toNat hr hb hbit
    simp [drawSprite_twice_snd_of_clear hlen hclear hq]

end Sys2Proof.Machine

/-! The control-flow instructions: a jump and a skip write pc alone, the next fetch is what checks it, and a return
undoes a call (`41_control_flow.md` R140 to R148). -/

namespace Sys2Proof.Machine

open Sys2Proof

/-! ### The encoding -/

/-- A pattern that fixes the top digit alone is decoded by `op` alone (R94). -/
theorem decodesUnder_F000 {k : Nat} {p : Word} {f : Word → Instr} (hp : p.toNat = 4096 * k)
    (hdecode : ∀ w, opField w = k → decodeWord w = some (f w)) : decodesUnder 0xF000 p f := by
  refine fun w hw => hdecode w ?_
  have hmask := toNat_and_F000 w
  rw [hw, hp] at hmask
  rw [opField_eq]
  omega

theorem decodesUnder_seImm : decodesUnder 0xF000 0x3000 fun w => .seImm (xField w) (nnField w) :=
  decodesUnder_F000 (k := 0x3) rfl fun w hop => by simp only [decodeWord, hop]

theorem decodesUnder_sneImm : decodesUnder 0xF000 0x4000 fun w => .sneImm (xField w) (nnField w) :=
  decodesUnder_F000 (k := 0x4) rfl fun w hop => by simp only [decodeWord, hop]

theorem decodesUnder_jp : decodesUnder 0xF000 0x1000 fun w => .jp (nnnField w) :=
  decodesUnder_F000 (k := 0x1) rfl fun w hop => by simp only [decodeWord, hop]

theorem decodesUnder_jpV0 : decodesUnder 0xF000 0xB000 fun w => .jpV0 (nnnField w) :=
  decodesUnder_F000 (k := 0xB) rfl fun w hop => by simp only [decodeWord, hop]

/-! ### The targets, and the fetch that checks them -/

@[simp] theorem toNat_addrOperand (nnn : Addr12) : (addrOperand nnn).toNat = nnn.toNat := by
  have := addr12_lt nnn
  simp only [addrOperand, BitVec.toNat_setWidth]
  omega

/-- The sum of a 12-bit address and a byte fits 16 bits, so BNNN's target never wraps (R147; log entry 29). -/
@[simp] theorem toNat_addrPlusV0 (nnn : Addr12) (s : State) :
    (addrPlusV0 nnn s).toNat = nnn.toNat + (s.reg 0).toNat := by
  have := addr12_lt nnn
  have := byte_lt (s.reg 0)
  simp only [addrPlusV0, BitVec.toNat_add, toNat_addrOperand, BitVec.toNat_setWidth]
  omega

/-- No instruction checks the pc it sets; the next fetch does (R62, R148). -/
theorem step_of_pc_beyond {s : State} (h : 4095 ≤ s.pc.toNat) :
    step s = .fault (.outOfBounds (max s.pc.toNat 4096)) := by
  rcases stepVia_cases Config.hardware exec s with ⟨-, e⟩ | ⟨hin, -⟩
  · exact e
  · omega

theorem unchangedBut_setPc (s : State) (v : Word) : unchangedBut [] [] s (s.setPc v) := by
  refine ⟨fun r _ => rfl, fun p _ => ?_⟩
  cases p with
  | memory => exact fun _ => rfl
  | _ => rfl

/-- A skip changes pc alone, whatever the skipped word is (R143 to R146). -/
theorem unchangedBut_skipIf (s : State) (taken : Bool) : unchangedBut [] [] s (s.skipIf taken) :=
  unchangedBut_setPc s _

/-! ### Skips and jumps -/

/-- Settles O19: 3XNN and 4XNN are one skip, on equality and on its negation. -/
theorem immediateSkips : Obligations.ImmediateSkips :=
  ⟨⟨decodesUnder_seImm, fun x nn s =>
      ⟨s.skipIf (s.reg x == nn), rfl, fun h => by simp [h], fun h => by simp [h],
        fun h => ⟨_, step_of_pc_beyond h⟩, unchangedBut_skipIf s _⟩⟩,
    ⟨decodesUnder_sneImm, fun x nn s =>
      ⟨s.skipIf (s.reg x != nn), rfl, fun h => by simp [h], fun h => by simp [h],
        fun h => ⟨_, step_of_pc_beyond h⟩, unchangedBut_skipIf s _⟩⟩⟩

/-- Settles O21: a jump sets pc to its target at full width, and the next fetch faults where that is too high. -/
theorem jumps : Obligations.Jumps :=
  ⟨⟨decodesUnder_jp, fun nnn s =>
      have hpc : (s.setPc (addrOperand nnn)).pc.toNat = nnn.toNat := toNat_addrOperand nnn
      ⟨_, rfl, hpc, fun h => ⟨_, step_of_pc_beyond (hpc ▸ h)⟩, unchangedBut_setPc s _⟩⟩,
    ⟨decodesUnder_jpV0, fun nnn s =>
      have hpc : (s.setPc (addrPlusV0 nnn s)).pc.toNat = nnn.toNat + (s.reg 0).toNat := toNat_addrPlusV0 nnn s
      ⟨_, rfl, hpc, fun h => ⟨_, step_of_pc_beyond (hpc ▸ h)⟩, unchangedBut_setPc s _⟩⟩⟩

/-! ### Call and return -/

/-- 00EE completes where an entry is in use: pc is the top entry plus 2 and `sp` is one less (R140). -/
theorem exec_ret_of_sp {s : State} {k : Fin 16} (h : s.sp.val = k.val + 1) :
    ∃ p : Fin 17, p.val = k.val ∧ exec .ret s = .next (({ s with sp := p } : State).setPc (s.stack[k.val] + 2)) := by
  rcases pop_cases s fun v s' => .next (s'.setPc (v + 2)) with ⟨j, p, hj, hp, e⟩ | ⟨hzero, -⟩
  · have hjk : j = k := Fin.ext (by omega)
    subst hjk
    exact ⟨p, hp, e⟩
  · omega

/-- Settles O24: the entry the return pops is the one the call wrote, at the call's `sp`, and every entry below it
is untouched. -/
theorem returnAfterCallResumesAfterIt : Obligations.ReturnAfterCallResumesAfterIt := by
  intro nnn s t u h hstack hsp
  obtain ⟨hlt, p, hp, rfl⟩ := exec_call_next h
  simp only [State.setPc_stack, State.setPc_sp] at hstack hsp
  obtain ⟨q, hq, hexec⟩ := exec_ret_of_sp (s := u) (k := ⟨s.sp.val, hlt⟩) (by rw [hsp, hp])
  refine ⟨_, hexec, ?_, Fin.ext hq, fun k hk => ?_⟩
  · simp [hstack]
  · simp [hstack, Vector.getElem_set_ne _ _ hk.ne']

end Sys2Proof.Machine

/-! Loading a register and adding to it with no flag (`42_alu.md` R170 to R172). -/

namespace Sys2Proof.Machine

open Sys2Proof

/-! ### The encoding -/

/-- A pattern that fixes the top and the low digit is decoded by `op` and `n` (R94). -/
theorem decodesUnder_F00F {k d : Nat} {p : Word} {f : Word → Instr} (hp : p.toNat = 4096 * k + d) (hd : d < 16)
    (hdecode : ∀ w, opField w = k → (nField w).val = d → decodeWord w = some (f w)) : decodesUnder 0xF00F p f := by
  intro w hw
  have hmask := toNat_and_F00F w
  rw [hw, hp] at hmask
  refine hdecode w ?_ ?_
  · rw [opField_eq]
    omega
  · rw [nField_val]
    omega

theorem decodesUnder_ldImm : decodesUnder 0xF000 0x6000 fun w => .ldImm (xField w) (nnField w) :=
  decodesUnder_F000 (k := 0x6) rfl fun w hop => by simp only [decodeWord, hop]

theorem decodesUnder_addImm : decodesUnder 0xF000 0x7000 fun w => .addImm (xField w) (nnField w) :=
  decodesUnder_F000 (k := 0x7) rfl fun w hop => by simp only [decodeWord, hop]

/-- The low digit 0 of 8XY_ selects the copy (log entry 27). -/
theorem decodesUnder_ldReg : decodesUnder 0xF00F 0x8000 fun w => .ldReg (xField w) (yField w) :=
  decodesUnder_F00F (k := 0x8) (d := 0x0) rfl (by decide) fun w hop hn => by
    simp only [decodeWord, hop, decodeAlu, hn]

/-! ### Writing one register -/

/-- An instruction that writes V[x] and completes leaves every other register, VF among them, and every part. -/
theorem unchangedBut_setReg_done (s : State) (x : Reg) (v : Byte) : unchangedBut [x] [] s (s.setReg x v).done := by
  refine ⟨fun r hr => ?_, fun p _ => ?_⟩
  · have hne : r ≠ x := by simpa using hr
    simp [hne]
  · cases p with
    | memory => exact fun _ => rfl
    | _ => rfl

/-- Settles O11: both loads write V[x] alone, 6XNN the immediate and 8XY0 the old V[y]. -/
theorem loadsIntoRegisters : Obligations.LoadsIntoRegisters :=
  ⟨⟨decodesUnder_ldImm, fun x nn s =>
      ⟨(s.setReg x nn).done, rfl, s.reg_setReg_same x nn, rfl, unchangedBut_setReg_done s x nn⟩⟩,
    ⟨decodesUnder_ldReg, fun x y s =>
      ⟨(s.setReg x (s.reg y)).done, rfl, s.reg_setReg_same x (s.reg y), rfl, unchangedBut_setReg_done s x _⟩⟩⟩

/-- Settles O12: the sum of two bytes is a byte, so it wraps at 256, and it is the one value written. -/
theorem addImmediateWrapsWithNoFlag : Obligations.AddImmediateWrapsWithNoFlag :=
  ⟨decodesUnder_addImm, fun x nn s =>
    have hsum : ((s.setReg x (s.reg x + nn)).done.reg x).toNat = ((s.reg x).toNat + nn.toNat) % 256 := by
      rw [State.reg_done, State.reg_setReg_same, BitVec.toNat_add]
    ⟨_, rfl, hsum, rfl, unchangedBut_setReg_done s x _⟩⟩

end Sys2Proof.Machine

/-! Loading the index register (`43_index_memory.md` R200, R202). -/

namespace Sys2Proof.Machine

open Sys2Proof

/-! ### The encoding -/

/-- A pattern that fixes the top digit and the low byte is decoded by `op` and `nn` (R94). -/
theorem decodesUnder_F0FF {k d : Nat} {p : Word} {f : Word → Instr} (hp : p.toNat = 4096 * k + d) (hd : d < 256)
    (hdecode : ∀ w, opField w = k → bits w 7 0 = d → decodeWord w = some (f w)) : decodesUnder 0xF0FF p f := by
  intro w hw
  have hmask := toNat_and_F0FF w
  rw [hw, hp] at hmask
  refine hdecode w ?_ ?_
  · rw [opField_eq]
    omega
  · rw [bits_7_0]
    omega

theorem decodesUnder_ldI : decodesUnder 0xF000 0xA000 fun w => .ldI (nnnField w) :=
  decodesUnder_F000 (k := 0xA) rfl fun w hop => by simp only [decodeWord, hop]

theorem decodesUnder_ldFVx : decodesUnder 0xF0FF 0xF029 fun w => .ldFVx (xField w) :=
  decodesUnder_F0FF (k := 0xF) (d := 0x29) rfl (by decide) fun w hop hnn => by
    simp only [decodeWord, hop, decodeMisc, hnn]

/-! ### Writing I -/

/-- Five times a byte fits 16 bits, so the glyph address is the whole product, not masked to a digit (R202; log
entry 30). -/
@[simp] theorem toNat_glyphAddress (v : Byte) : (glyphAddress v).toNat = v.toNat * 5 := by
  have := byte_lt v
  simp only [glyphAddress, BitVec.toNat_ofNat]
  omega

/-- An instruction that writes I and completes leaves every register and every other part. -/
theorem unchangedBut_setI_done (s : State) (v : Word) : unchangedBut [] [.index] s (s.setI v).done := by
  refine ⟨fun r _ => rfl, fun p hp => ?_⟩
  cases p with
  | index => simp at hp
  | memory => exact fun _ => rfl
  | _ => rfl

/-- Settles O25: both loads write I alone, ANNN its address and FX29 the glyph address of the whole V[x]. -/
theorem indexLoads : Obligations.IndexLoads :=
  ⟨⟨decodesUnder_ldI, fun nnn s =>
      ⟨(s.setI (addrOperand nnn)).done, rfl, toNat_addrOperand nnn, rfl, unchangedBut_setI_done s _⟩⟩,
    ⟨decodesUnder_ldFVx, fun x s =>
      ⟨(s.setI (glyphAddress (s.reg x))).done, rfl, toNat_glyphAddress (s.reg x), rfl, unchangedBut_setI_done s _⟩⟩⟩

end Sys2Proof.Machine

/-! Reading and writing the timers (`44_keys_timers.md` R232, R237, R238). -/

namespace Sys2Proof.Machine

open Sys2Proof

/-! ### The encoding -/

theorem decodesUnder_ldVxDt : decodesUnder 0xF0FF 0xF007 fun w => .ldVxDt (xField w) :=
  decodesUnder_F0FF (k := 0xF) (d := 0x07) rfl (by decide) fun w hop hnn => by
    simp only [decodeWord, hop, decodeMisc, hnn]

theorem decodesUnder_ldDtVx : decodesUnder 0xF0FF 0xF015 fun w => .ldDtVx (xField w) :=
  decodesUnder_F0FF (k := 0xF) (d := 0x15) rfl (by decide) fun w hop hnn => by
    simp only [decodeWord, hop, decodeMisc, hnn]

theorem decodesUnder_ldStVx : decodesUnder 0xF0FF 0xF018 fun w => .ldStVx (xField w) :=
  decodesUnder_F0FF (k := 0xF) (d := 0x18) rfl (by decide) fun w hop hnn => by
    simp only [decodeWord, hop, decodeMisc, hnn]

/-! ### Writing a timer -/

/-- An instruction that writes DT and completes leaves every register and every other part. -/
theorem unchangedBut_setDT_done (s : State) (v : Byte) : unchangedBut [] [.delay] s (s.setDT v).done := by
  refine ⟨fun r _ => rfl, fun p hp => ?_⟩
  cases p with
  | delay => simp at hp
  | memory => exact fun _ => rfl
  | _ => rfl

/-- An instruction that writes ST and completes leaves every register and every other part, `beep` among them. -/
theorem unchangedBut_setST_done (s : State) (v : Byte) : unchangedBut [] [.sound] s (s.setST v).done := by
  refine ⟨fun r _ => rfl, fun p hp => ?_⟩
  cases p with
  | sound => simp at hp
  | memory => exact fun _ => rfl
  | _ => rfl

/-- A tick sets `beep` from ST alone, whatever `beep` was (R270). -/
theorem beep_tickTimers_eq_true_iff (s : State) : (tickTimers s).beep = true ↔ s.ST = 1 :=
  beq_iff_eq

/-- Settles O41: each of the three copies one byte, and after FX18 the ST the next tick tests is V[x]. -/
theorem timerReadsAndWrites : Obligations.TimerReadsAndWrites :=
  ⟨⟨decodesUnder_ldVxDt, fun x s =>
      ⟨(s.setReg x s.DT).done, rfl, s.reg_setReg_same x s.DT, rfl, unchangedBut_setReg_done s x s.DT⟩⟩,
    ⟨decodesUnder_ldDtVx, fun x s =>
      ⟨(s.setDT (s.reg x)).done, rfl, rfl, rfl, unchangedBut_setDT_done s (s.reg x)⟩⟩,
    ⟨decodesUnder_ldStVx, fun x s =>
      ⟨(s.setST (s.reg x)).done, rfl, rfl, rfl, beep_tickTimers_eq_true_iff _, unchangedBut_setST_done s (s.reg x)⟩⟩⟩

end Sys2Proof.Machine

/-! The wait at FX0A (`44_keys_timers.md` R236, `60_exceptions.md` R262). -/

namespace Sys2Proof.Machine

open Sys2Proof

/-- The next instruction is the one the word at `pc` decodes to, where that word can be fetched. -/
theorem nextInstr_eq_some_iff (s : State) (i : Instr) :
    s.nextInstr = some i ↔ ∃ w, s.fetches w ∧ decodeWord w = some i := by
  constructor
  · intro h
    cases hf : fetchWord s with
    | ok w => exact ⟨w, (fetchWord_eq_ok s w).mp hf, by simpa only [State.nextInstr, hf] using h⟩
    | error f => simp [State.nextInstr, hf] at h
  · rintro ⟨w, hw, hi⟩
    simp only [State.nextInstr, (fetchWord_eq_ok s w).mpr hw, hi]

/-- Under every configuration a step runs the instruction that is next. -/
theorem stepWith_of_nextInstr {c : Config} {s : State} {i : Instr} (h : s.nextInstr = some i) :
    stepWith c s = execWith c i s := by
  obtain ⟨w, hw, hi⟩ := (nextInstr_eq_some_iff s i).mp h
  simp only [stepWith, stepVia, (fetchWord_eq_ok s w).mpr hw, hi]

theorem waiting_eq_true_iff (s : State) :
    s.waiting = true ↔ ∃ x, s.nextInstr = some (.ldVxK x) ∧ s.pressedKeys = [] := by
  unfold State.waiting
  split
  next x hx => simp [hx, List.isEmpty_iff]
  next hother => exact ⟨fun h => (Bool.false_ne_true h).elim, fun ⟨x, hx, _⟩ => (hother x hx).elim⟩

/-- The report is `Waiting` only for the wait: a step that ends otherwise has progressed or failed. -/
theorem stepReport_eq_waiting_iff (c : Config) (s : State) :
    stepReport c s = .waiting ↔ s.waiting = true := by
  unfold stepReport
  split
  next hwait => simp [hwait]
  next hwait => cases stepWith c s <;> simp [hwait]

/-- With no key pressed FX0A answers the state it was given (R236; log entry 25). -/
theorem execWith_ldVxK_of_pressedKeys_eq_nil {c : Config} {s : State} (x : Reg) (h : s.pressedKeys = []) :
    execWith c (.ldVxK x) s = .next s := by
  simp only [execWith, execLdVxKWith, h, waitStep]

theorem hostOp_step_of_waiting {c : Config} {s : State} (h : stepReport c s = .waiting) :
    hostOp c .step s = (s, .stepped .waiting) := by
  simp only [hostOp, h, StepReport.stateAfter]

/-- Settles O38: the report tests the next instruction and the latches, and a step that waits leaves both, so the
next step waits too. -/
theorem waitingIsFx0aWithNoKey : Obligations.WaitingIsFx0aWithNoKey := by
  intro c s
  refine ⟨?_, fun hreport => ?_⟩
  · rw [stepReport_eq_waiting_iff, waiting_eq_true_iff]
    simp only [nextInstr_eq_some_iff, pressedKeys_eq_nil]
    exact ⟨fun ⟨x, ⟨w, hw, hi⟩, hkeys⟩ => ⟨w, x, hw, hi, hkeys⟩,
      fun ⟨w, x, hw, hi, hkeys⟩ => ⟨x, ⟨w, hw, hi⟩, hkeys⟩⟩
  · obtain ⟨x, hnext, hnone⟩ := (waiting_eq_true_iff s).mp ((stepReport_eq_waiting_iff c s).mp hreport)
    have hop := hostOp_step_of_waiting hreport
    have hexec := execWith_ldVxK_of_pressedKeys_eq_nil (c := c) x hnone
    exact ⟨(stepWith_of_nextInstr hnext).trans hexec, hop, by rw [hop, hop]⟩

end Sys2Proof.Machine

/-! The host's ticks and its framebuffer device (`60_exceptions.md` R270, R271, R278). -/

namespace Sys2Proof.Machine

open Sys2Proof

/-! ### Ticks -/

/-- A timer stops at 0, as subtraction of natural numbers does (R36). -/
@[simp] theorem toNat_countDown (t : Byte) : (countDown t).toNat = t.toNat - 1 := by
  unfold countDown
  split
  next hzero => simp [hzero]
  next hne => bv_omega

@[simp] theorem tickTimers_ST (s : State) : (tickTimers s).ST = countDown s.ST := rfl

theorem beep_tickTimers_iff_toNat (s : State) : (tickTimers s).beep = true ↔ s.ST.toNat = 1 := by
  rw [beep_tickTimers_eq_true_iff]
  bv_omega

theorem unchangedBut_tickTimers (s : State) : unchangedBut [] [.delay, .sound, .beep] s (tickTimers s) := by
  refine ⟨fun r _ => rfl, fun p hp => ?_⟩
  cases p with
  | delay | sound | beep => simp at hp
  | memory => exact fun _ => rfl
  | _ => rfl

/-- Settles O56: a tick counts both timers down and latches whether ST was 1. -/
theorem tickDecrementsAndLatchesBeep : Obligations.TickDecrementsAndLatchesBeep := fun _ s =>
  ⟨tickTimers s, rfl, toNat_countDown s.DT, toNat_countDown s.ST, beep_tickTimers_iff_toNat s, rfl,
    unchangedBut_tickTimers s⟩

/-- After `m` ticks ST is `m` lower, or 0. -/
theorem toNat_ST_iterate_tickTimers (s : State) (m : Nat) :
    (tickTimers^[m] s).ST.toNat = s.ST.toNat - m := by
  induction m with
  | zero => rfl
  | succ m ih => rw [Function.iterate_succ_apply', tickTimers_ST, toNat_countDown, ih, Nat.sub_sub]

/-- Settles O57: the last of `m + 1` ticks latches whether ST stood at 1 after the `m` before it. -/
theorem beepIsOnePulse : Obligations.BeepIsOnePulse := by
  refine ⟨fun s m => ?_, rfl, fun _ _ => rfl⟩
  calc beepPending (tickTimers^[m + 1] s) = true
      ↔ (tickTimers (tickTimers^[m] s)).beep = true := by rw [beepPending, Function.iterate_succ_apply']
    _ ↔ s.ST.toNat - m = 1 := by rw [beep_tickTimers_iff_toNat, toNat_ST_iterate_tickTimers]
    _ ↔ s.ST.toNat = m + 1 := by omega

/-! ### The framebuffer device -/

theorem unchangedBut_clearDirty (s : State) : unchangedBut [] [.dirty] s (clearDirty s) := by
  refine ⟨fun r _ => rfl, fun p hp => ?_⟩
  cases p with
  | dirty => simp at hp
  | memory => exact fun _ => rfl
  | _ => rfl

/-- Settles O60: the read answers the two fields, and the clear writes `dirty` alone. -/
theorem hostReadsAndClearsTheFrame : Obligations.HostReadsAndClearsTheFrame := fun _ s =>
  ⟨rfl, clearDirty s, rfl, rfl, rfl, unchangedBut_clearDirty s⟩

end Sys2Proof.Machine

/-! The opcode map (`30_encoding.md` R90 to R97): every row's pattern decodes to an instruction of the row, decode and
encode undo each other, and no word matches two rows. -/

namespace Sys2Proof.Machine

open Sys2Proof

/-! ### The rows not yet met -/

/-- A pattern that fixes all sixteen digits is one word. -/
theorem decodesUnder_FFFF {p : Word} {i : Instr} (hdecode : decodeWord p = some i) :
    decodesUnder 0xFFFF p fun _ => i := by
  intro w hw
  have hall : w = p := BitVec.eq_of_toNat_eq (by rw [← toNat_and_FFFF w, hw])
  rw [hall, hdecode]

theorem decodesUnder_ret : decodesUnder 0xFFFF 0x00EE fun _ => .ret := decodesUnder_FFFF (by decide)

theorem decodesUnder_call : decodesUnder 0xF000 0x2000 fun w => .call (nnnField w) :=
  decodesUnder_F000 (k := 0x2) rfl fun w hop => by simp only [decodeWord, hop]

theorem decodesUnder_seReg : decodesUnder 0xF00F 0x5000 fun w => .seReg (xField w) (yField w) :=
  decodesUnder_F00F (k := 0x5) (d := 0x0) rfl (by decide) fun w hop hn => by
    simp only [decodeWord, hop, hn, if_true]

theorem decodesUnder_sneReg : decodesUnder 0xF00F 0x9000 fun w => .sneReg (xField w) (yField w) :=
  decodesUnder_F00F (k := 0x9) (d := 0x0) rfl (by decide) fun w hop hn => by
    simp only [decodeWord, hop, hn, if_true]

theorem decodesUnder_rnd : decodesUnder 0xF000 0xC000 fun w => .rnd (xField w) (nnField w) :=
  decodesUnder_F000 (k := 0xC) rfl fun w hop => by simp only [decodeWord, hop]

theorem decodesUnder_drw : decodesUnder 0xF000 0xD000 fun w => .drw (xField w) (yField w) (nField w) :=
  decodesUnder_F000 (k := 0xD) rfl fun w hop => by simp only [decodeWord, hop]

/-- op 8: the low digit selects the operation (R94; log entry 27). -/
theorem decodesUnder_alu {d : Nat} {p : Word} {f : Word → Instr} (hp : p.toNat = 0x8000 + d) (hd : d < 16)
    (hdecode : ∀ w, (nField w).val = d → decodeAlu w = some (f w)) : decodesUnder 0xF00F p f :=
  decodesUnder_F00F (k := 0x8) hp hd fun w hop hn => by simp only [decodeWord, hop, hdecode w hn]

theorem decodesUnder_orReg : decodesUnder 0xF00F 0x8001 fun w => .orReg (xField w) (yField w) :=
  decodesUnder_alu (d := 0x1) rfl (by decide) fun w hn => by simp only [decodeAlu, hn]

theorem decodesUnder_andReg : decodesUnder 0xF00F 0x8002 fun w => .andReg (xField w) (yField w) :=
  decodesUnder_alu (d := 0x2) rfl (by decide) fun w hn => by simp only [decodeAlu, hn]

theorem decodesUnder_xorReg : decodesUnder 0xF00F 0x8003 fun w => .xorReg (xField w) (yField w) :=
  decodesUnder_alu (d := 0x3) rfl (by decide) fun w hn => by simp only [decodeAlu, hn]

theorem decodesUnder_addReg : decodesUnder 0xF00F 0x8004 fun w => .addReg (xField w) (yField w) :=
  decodesUnder_alu (d := 0x4) rfl (by decide) fun w hn => by simp only [decodeAlu, hn]

theorem decodesUnder_subReg : decodesUnder 0xF00F 0x8005 fun w => .subReg (xField w) (yField w) :=
  decodesUnder_alu (d := 0x5) rfl (by decide) fun w hn => by simp only [decodeAlu, hn]

theorem decodesUnder_shr : decodesUnder 0xF00F 0x8006 fun w => .shr (xField w) (yField w) :=
  decodesUnder_alu (d := 0x6) rfl (by decide) fun w hn => by simp only [decodeAlu, hn]

theorem decodesUnder_subn : decodesUnder 0xF00F 0x8007 fun w => .subn (xField w) (yField w) :=
  decodesUnder_alu (d := 0x7) rfl (by decide) fun w hn => by simp only [decodeAlu, hn]

theorem decodesUnder_shl : decodesUnder 0xF00F 0x800E fun w => .shl (xField w) (yField w) :=
  decodesUnder_alu (d := 0xE) rfl (by decide) fun w hn => by simp only [decodeAlu, hn]

theorem decodesUnder_skp : decodesUnder 0xF0FF 0xE09E fun w => .skp (xField w) :=
  decodesUnder_F0FF (k := 0xE) (d := 0x9E) rfl (by decide) fun w hop hnn => by
    simp only [decodeWord, hop, decodeKey, hnn]

theorem decodesUnder_sknp : decodesUnder 0xF0FF 0xE0A1 fun w => .sknp (xField w) :=
  decodesUnder_F0FF (k := 0xE) (d := 0xA1) rfl (by decide) fun w hop hnn => by
    simp only [decodeWord, hop, decodeKey, hnn]

/-- op F: the low byte selects the operation (R94). -/
theorem decodesUnder_misc {d : Nat} {p : Word} {f : Word → Instr} (hp : p.toNat = 0xF000 + d) (hd : d < 256)
    (hdecode : ∀ w, bits w 7 0 = d → decodeMisc w = some (f w)) : decodesUnder 0xF0FF p f :=
  decodesUnder_F0FF (k := 0xF) hp hd fun w hop hnn => by simp only [decodeWord, hop, hdecode w hnn]

theorem decodesUnder_ldVxK : decodesUnder 0xF0FF 0xF00A fun w => .ldVxK (xField w) :=
  decodesUnder_misc (d := 0x0A) rfl (by decide) fun w hnn => by simp only [decodeMisc, hnn]

theorem decodesUnder_addIVx : decodesUnder 0xF0FF 0xF01E fun w => .addIVx (xField w) :=
  decodesUnder_misc (d := 0x1E) rfl (by decide) fun w hnn => by simp only [decodeMisc, hnn]

theorem decodesUnder_ldBVx : decodesUnder 0xF0FF 0xF033 fun w => .ldBVx (xField w) :=
  decodesUnder_misc (d := 0x33) rfl (by decide) fun w hnn => by simp only [decodeMisc, hnn]

theorem decodesUnder_ldMemVx : decodesUnder 0xF0FF 0xF055 fun w => .ldMemVx (xField w) :=
  decodesUnder_misc (d := 0x55) rfl (by decide) fun w hnn => by simp only [decodeMisc, hnn]

theorem decodesUnder_ldVxMem : decodesUnder 0xF0FF 0xF065 fun w => .ldVxMem (xField w) :=
  decodesUnder_misc (d := 0x65) rfl (by decide) fun w hnn => by simp only [decodeMisc, hnn]

/-! ### The rows together -/

/-- An instruction's row is in the opcode map, and its word has the row's fixed bits (R95, R96). -/
theorem tableRow (i : Instr) : i.row ∈ opcodeTable ∧ i.row.matchesWord (encode i) = true := by
  cases i with
  | cls => exact Laws.TableRow.cls
  | ret => exact Laws.TableRow.ret
  | jp a => exact Laws.TableRow.jp a
  | call a => exact Laws.TableRow.call a
  | seImm x nn => exact Laws.TableRow.seImm x nn
  | sneImm x nn => exact Laws.TableRow.sneImm x nn
  | seReg x y => exact Laws.TableRow.seReg x y
  | ldImm x nn => exact Laws.TableRow.ldImm x nn
  | addImm x nn => exact Laws.TableRow.addImm x nn
  | ldReg x y => exact Laws.TableRow.ldReg x y
  | orReg x y => exact Laws.TableRow.orReg x y
  | andReg x y => exact Laws.TableRow.andReg x y
  | xorReg x y => exact Laws.TableRow.xorReg x y
  | addReg x y => exact Laws.TableRow.addReg x y
  | subReg x y => exact Laws.TableRow.subReg x y
  | shr x y => exact Laws.TableRow.shr x y
  | subn x y => exact Laws.TableRow.subn x y
  | shl x y => exact Laws.TableRow.shl x y
  | sneReg x y => exact Laws.TableRow.sneReg x y
  | ldI a => exact Laws.TableRow.ldI a
  | jpV0 a => exact Laws.TableRow.jpV0 a
  | rnd x nn => exact Laws.TableRow.rnd x nn
  | drw x y n => exact Laws.TableRow.drw x y n
  | skp x => exact Laws.TableRow.skp x
  | sknp x => exact Laws.TableRow.sknp x
  | ldVxDt x => exact Laws.TableRow.ldVxDt x
  | ldVxK x => exact Laws.TableRow.ldVxK x
  | ldDtVx x => exact Laws.TableRow.ldDtVx x
  | ldStVx x => exact Laws.TableRow.ldStVx x
  | addIVx x => exact Laws.TableRow.addIVx x
  | ldFVx x => exact Laws.TableRow.ldFVx x
  | ldBVx x => exact Laws.TableRow.ldBVx x
  | ldMemVx x => exact Laws.TableRow.ldMemVx x
  | ldVxMem x => exact Laws.TableRow.ldVxMem x

/-- The instruction of `i`'s row with its operands in the fields of `w` (R92, R93). -/
def withFieldsOf (w : Word) : Instr → Instr
  | .cls => .cls
  | .ret => .ret
  | .jp _ => .jp (nnnField w)
  | .call _ => .call (nnnField w)
  | .seImm _ _ => .seImm (xField w) (nnField w)
  | .sneImm _ _ => .sneImm (xField w) (nnField w)
  | .seReg _ _ => .seReg (xField w) (yField w)
  | .ldImm _ _ => .ldImm (xField w) (nnField w)
  | .addImm _ _ => .addImm (xField w) (nnField w)
  | .ldReg _ _ => .ldReg (xField w) (yField w)
  | .orReg _ _ => .orReg (xField w) (yField w)
  | .andReg _ _ => .andReg (xField w) (yField w)
  | .xorReg _ _ => .xorReg (xField w) (yField w)
  | .addReg _ _ => .addReg (xField w) (yField w)
  | .subReg _ _ => .subReg (xField w) (yField w)
  | .shr _ _ => .shr (xField w) (yField w)
  | .subn _ _ => .subn (xField w) (yField w)
  | .shl _ _ => .shl (xField w) (yField w)
  | .sneReg _ _ => .sneReg (xField w) (yField w)
  | .ldI _ => .ldI (nnnField w)
  | .jpV0 _ => .jpV0 (nnnField w)
  | .rnd _ _ => .rnd (xField w) (nnField w)
  | .drw _ _ _ => .drw (xField w) (yField w) (nField w)
  | .skp _ => .skp (xField w)
  | .sknp _ => .sknp (xField w)
  | .ldVxDt _ => .ldVxDt (xField w)
  | .ldVxK _ => .ldVxK (xField w)
  | .ldDtVx _ => .ldDtVx (xField w)
  | .ldStVx _ => .ldStVx (xField w)
  | .addIVx _ => .addIVx (xField w)
  | .ldFVx _ => .ldFVx (xField w)
  | .ldBVx _ => .ldBVx (xField w)
  | .ldMemVx _ => .ldMemVx (xField w)
  | .ldVxMem _ => .ldVxMem (xField w)

theorem row_withFieldsOf (w : Word) (i : Instr) : (withFieldsOf w i).row = i.row := by cases i <;> rfl

/-- Every word under a row's pattern decodes to the row's instruction with the word's fields. -/
theorem decodesUnder_row (i : Instr) : decodesUnder i.row.mask i.row.pattern fun w => withFieldsOf w i := by
  cases i with
  | cls => exact decodesUnder_cls
  | ret => exact decodesUnder_ret
  | jp _ => exact decodesUnder_jp
  | call _ => exact decodesUnder_call
  | seImm _ _ => exact decodesUnder_seImm
  | sneImm _ _ => exact decodesUnder_sneImm
  | seReg _ _ => exact decodesUnder_seReg
  | ldImm _ _ => exact decodesUnder_ldImm
  | addImm _ _ => exact decodesUnder_addImm
  | ldReg _ _ => exact decodesUnder_ldReg
  | orReg _ _ => exact decodesUnder_orReg
  | andReg _ _ => exact decodesUnder_andReg
  | xorReg _ _ => exact decodesUnder_xorReg
  | addReg _ _ => exact decodesUnder_addReg
  | subReg _ _ => exact decodesUnder_subReg
  | shr _ _ => exact decodesUnder_shr
  | subn _ _ => exact decodesUnder_subn
  | shl _ _ => exact decodesUnder_shl
  | sneReg _ _ => exact decodesUnder_sneReg
  | ldI _ => exact decodesUnder_ldI
  | jpV0 _ => exact decodesUnder_jpV0
  | rnd _ _ => exact decodesUnder_rnd
  | drw _ _ _ => exact decodesUnder_drw
  | skp _ => exact decodesUnder_skp
  | sknp _ => exact decodesUnder_sknp
  | ldVxDt _ => exact decodesUnder_ldVxDt
  | ldVxK _ => exact decodesUnder_ldVxK
  | ldDtVx _ => exact decodesUnder_ldDtVx
  | ldStVx _ => exact decodesUnder_ldStVx
  | addIVx _ => exact decodesUnder_addIVx
  | ldFVx _ => exact decodesUnder_ldFVx
  | ldBVx _ => exact decodesUnder_ldBVx
  | ldMemVx _ => exact decodesUnder_ldMemVx
  | ldVxMem _ => exact decodesUnder_ldVxMem

theorem exists_row_of_mem_opcodeTable : ∀ r ∈ opcodeTable, ∃ i : Instr, i.row = r := by
  simp only [opcodeTable, List.forall_mem_append, List.forall_mem_cons, List.not_mem_nil, false_imp_iff,
    implies_true, and_true, exists_apply_eq_apply]

/-- A word that matches a row decodes to an instruction of that row (R95). -/
theorem exists_decodeWord_of_matchesWord {r : OpcodeRow} {w : Word} (hr : r ∈ opcodeTable)
    (hw : r.matchesWord w = true) : ∃ i, decodeWord w = some i ∧ i.row = r := by
  obtain ⟨i, rfl⟩ := exists_row_of_mem_opcodeTable r hr
  exact ⟨withFieldsOf w i, decodesUnder_row i w (beq_iff_eq.mp hw), row_withFieldsOf w i⟩

/-! ### Decode of encode -/

/-- The operands of an instruction are as wide as its fields (R91, R93). -/
theorem operandNumbers_lt (i : Instr) : i.operandNumbers.x < 16 ∧ i.operandNumbers.y < 16 ∧ i.operandNumbers.n < 16 ∧
    i.operandNumbers.nn < 256 ∧ i.operandNumbers.nnn < 4096 := by
  simpa [Instr.wellFormed, OperandNumbers.wellFormed, and_assoc] using i.wellFormed_all

/-- An instruction's word as a number: its pattern leaves room for its fields, so the sum fits (R92). -/
theorem toNat_encode (i : Instr) : (encode i).toNat = i.row.pattern.toNat + i.operandNumbers.x * 0x100 +
    i.operandNumbers.y * 0x10 + i.operandNumbers.n + i.operandNumbers.nn + i.operandNumbers.nnn := by
  have hlt := operandNumbers_lt i
  rw [encode, BitVec.toNat_ofNat, Nat.mod_eq_of_lt]
  cases i <;> simp only [Instr.row, Instr.operandNumbers, BitVec.reduceToNat] at hlt ⊢ <;> omega

/-- The fields of an instruction's word are its operands (R92). -/
theorem withFieldsOf_encode (i : Instr) : withFieldsOf (encode i) i = i := by
  have hword := toNat_encode i
  have hlt := operandNumbers_lt i
  cases i <;> simp only [Instr.row, Instr.operandNumbers, BitVec.reduceToNat] at hword hlt <;>
    simp [withFieldsOf, Fin.ext_iff, BitVec.toNat_eq, xField_val, yField_val, nField_val, nnField_toNat,
      nnnField_toNat] <;> omega

theorem decodeWord_encode (i : Instr) : decodeWord (encode i) = some i := by
  have hdecode : decodeWord (encode i) = some (withFieldsOf (encode i) i) :=
    decodesUnder_row i (encode i) (beq_iff_eq.mp (tableRow i).2)
  rwa [withFieldsOf_encode] at hdecode

/-- Settles O2: an instruction's word is under its row's pattern, its fields are the operands, and its two bytes make
it again. -/
theorem decodeOfEncodeIsTheInstruction : Obligations.DecodeOfEncodeIsTheInstruction := by
  refine fun i rest => ⟨i.wellFormed_all, decodeWord_encode i, ?_⟩
  simp only [encodeBytes, List.cons_append, List.nil_append, decode, wordOfBytes_highByte_lowByte, decodeWord_encode]

/-! ### Encode of decode -/

/-- A word is an instruction's word when the pattern and the operands add up to it (R92). -/
theorem encode_eq_of_toNat {i : Instr} {w : Word} (h : w.toNat = i.row.pattern.toNat + i.operandNumbers.x * 0x100 +
    i.operandNumbers.y * 0x10 + i.operandNumbers.n + i.operandNumbers.nn + i.operandNumbers.nnn) : encode i = w :=
  BitVec.eq_of_toNat_eq ((toNat_encode i).trans h.symm)

theorem encode_of_decodeSystem {w : Word} {i : Instr} (h : decodeSystem w = some i) : encode i = w := by
  unfold decodeSystem at h
  split at h
  next hw => cases h; rw [hw]; decide
  next =>
    split at h
    next hw => cases h; rw [hw]; decide
    next => cases h

theorem encode_of_decodeAlu {w : Word} {i : Instr} (hop : opField w = 0x8) (h : decodeAlu w = some i) :
    encode i = w := by
  have hsplit := opField_eq w
  unfold decodeAlu at h
  split at h <;> cases h <;> rename_i hn <;> rw [nField_val] at hn <;> apply encode_eq_of_toNat <;>
    simp only [Instr.row, Instr.operandNumbers, xField_val, yField_val, BitVec.reduceToNat] <;> omega

theorem encode_of_decodeKey {w : Word} {i : Instr} (hop : opField w = 0xE) (h : decodeKey w = some i) :
    encode i = w := by
  have hsplit := opField_eq w
  unfold decodeKey at h
  split at h <;> cases h <;> rename_i hnn <;> rw [bits_7_0] at hnn <;> apply encode_eq_of_toNat <;>
    simp only [Instr.row, Instr.operandNumbers, xField_val, BitVec.reduceToNat] <;> omega

theorem encode_of_decodeMisc {w : Word} {i : Instr} (hop : opField w = 0xF) (h : decodeMisc w = some i) :
    encode i = w := by
  have hsplit := opField_eq w
  unfold decodeMisc at h
  split at h <;> cases h <;> rename_i hnn <;> rw [bits_7_0] at hnn <;> apply encode_eq_of_toNat <;>
    simp only [Instr.row, Instr.operandNumbers, xField_val, BitVec.reduceToNat] <;> omega

/-- Settles O3: in each row the fixed bits the decoder matched and the fields it read add up to the word. -/
theorem encodeOfDecodeIsTheWord : Obligations.EncodeOfDecodeIsTheWord := by
  intro w i h
  have hsplit := opField_eq w
  unfold decodeWord at h
  split at h
  case h_1 => exact encode_of_decodeSystem h
  case h_9 hop => exact encode_of_decodeAlu hop h
  case h_15 hop => exact encode_of_decodeKey hop h
  case h_16 hop => exact encode_of_decodeMisc hop h
  case h_17 => cases h
  case h_6 | h_10 =>
    split at h <;> cases h
    rename_i hn
    rw [nField_val] at hn
    apply encode_eq_of_toNat
    simp only [Instr.row, Instr.operandNumbers, xField_val, yField_val, BitVec.reduceToNat]
    omega
  all_goals
    cases h
    apply encode_eq_of_toNat
    simp only [Instr.row, Instr.operandNumbers, xField_val, yField_val, nField_val, nnField_toNat, nnnField_toNat,
      BitVec.reduceToNat]
    omega

/-- Settles O5: a decoded word is its instruction's own, which matches its row, and a row a word matches is that of
the one instruction the word decodes to. -/
theorem wordMatchesOneRow : Obligations.WordMatchesOneRow := by
  intro w
  have own {i : Instr} (h : decodeWord w = some i) : i.row ∈ opcodeTable ∧ i.row.matchesWord w = true := by
    have hrow := tableRow i
    rwa [encodeOfDecodeIsTheWord w i h] at hrow
  refine ⟨⟨fun h => ?_, fun ⟨r, hr, hw⟩ => ?_⟩, fun i h => ⟨(own h).1, (own h).2, fun r hr hw => ?_⟩⟩
  · obtain ⟨i, hi⟩ := Option.isSome_iff_exists.mp h
    exact ⟨i.row, own hi⟩
  · obtain ⟨i, hi, -⟩ := exists_decodeWord_of_matchesWord hr hw
    exact Option.isSome_iff_exists.mpr ⟨i, hi⟩
  · obtain ⟨j, hj, rfl⟩ := exists_decodeWord_of_matchesWord hr hw
    rw [Option.some.inj (h.symm.trans hj)]

/-! ### The unrecognised words -/

theorem decodeSystem_eq_none_iff (w : Word) : decodeSystem w = none ↔ w ≠ 0x00E0 ∧ w ≠ 0x00EE := by
  unfold decodeSystem
  split
  next hw => simp [hw]
  next hw => split <;> simp_all

theorem decodeAlu_eq_none_iff (w : Word) :
    decodeAlu w = none ↔ (nField w).val ∈ [0x8, 0x9, 0xA, 0xB, 0xC, 0xD, 0xF] := by
  have hlt := (nField w).isLt
  unfold decodeAlu
  interval_cases (nField w).val <;> simp

theorem decodeKey_eq_none_iff (w : Word) : decodeKey w = none ↔ (nnField w).toNat ∉ [0x9E, 0xA1] := by
  rw [nnField_toNat, ← bits_7_0]
  unfold decodeKey
  split <;> simp_all

theorem decodeMisc_eq_none_iff (w : Word) : decodeMisc w = none ↔
    (nnField w).toNat ∉ [0x07, 0x0A, 0x15, 0x18, 0x1E, 0x29, 0x33, 0x55, 0x65] := by
  rw [nnField_toNat, ← bits_7_0]
  unfold decodeMisc
  split <;> simp_all

/-- Settles O4: under each `op` the decoder rejects what that range of the table lists, and under the others nothing. -/
theorem unrecognisedWordsAreThoseOfTheTable : Obligations.UnrecognisedWordsAreThoseOfTheTable := by
  intro w
  have hlt : opField w < 16 := by
    have := word_lt w
    rw [opField_eq]
    omega
  rw [← decodeSystem_eq_none_iff, ← decodeAlu_eq_none_iff, ← decodeKey_eq_none_iff, ← decodeMisc_eq_none_iff]
  unfold decodeWord
  interval_cases opField w <;> simp

/-- Settles O1: each is one evaluation of the decoder. -/
theorem sampleWordsDecode : Obligations.SampleWordsDecode := by
  unfold Obligations.SampleWordsDecode
  decide

end Sys2Proof.Machine

/-! What a step does around the decoded instruction (`20_memory.md` R62, R63, R66; `60_exceptions.md` R260 to R266). -/

namespace Sys2Proof.Machine

open Sys2Proof

/-! ### A recognised word -/

theorem nextInstr_of_fetches {s : State} {w : Word} {i : Instr} (hw : s.fetches w) (hi : decodeWord w = some i) :
    s.nextInstr = some i := (nextInstr_eq_some_iff s i).mpr ⟨w, hw, hi⟩

theorem nextUnknown_eq_none_of_fetches {s : State} {w : Word} {i : Instr} (hw : s.fetches w)
    (hi : decodeWord w = some i) : s.nextUnknown = none := by
  simp [State.nextUnknown, (fetchWord_eq_ok s w).mpr hw, hi]

theorem stepReport_of_next {c : Config} {s t : State} (hwait : s.waiting = false) (h : stepWith c s = .next t) :
    stepReport c s = .progressed t s.nextUnknown := by
  simp [stepReport, hwait, h]

theorem hostOp_step_of_progressed {c : Config} {s t : State} {d : Option Word}
    (h : stepReport c s = .progressed t d) : hostOp c .step s = (t, .stepped (.progressed t d)) := by
  simp only [hostOp, h, StepReport.stateAfter]

/-- A recognised word that is not a wait, and completes, is reported as `Progressed` with no diagnostic (R261). -/
theorem hostOp_step_of_fetches {c : Config} {s t : State} {w : Word} {i : Instr} (hw : s.fetches w)
    (hi : decodeWord w = some i) (ht : stepWith c s = .next t) (hwait : s.waiting = false) :
    hostOp c .step s = (t, .stepped (.progressed t none)) := by
  have hreport := stepReport_of_next hwait ht
  rw [nextUnknown_eq_none_of_fetches hw hi] at hreport
  exact hostOp_step_of_progressed hreport

/-- Settles O6: the fetch and the decode succeed, and what is left of the step is the instruction. -/
theorem stepRunsTheDecodedInstruction : Obligations.StepRunsTheDecodedInstruction := fun s _ _ hw hi =>
  ⟨step_of_fetches hw hi,
    fun _ ht hwait => hostOp_step_of_fetches hw hi ((stepWith_hardware s).trans ht) hwait,
    fun _ => ⟨stepWith_of_nextInstr (nextInstr_of_fetches hw hi), fun _ ht hwait => hostOp_step_of_fetches hw hi ht hwait⟩⟩

/-! ### A placed word -/

/-- What the decoder reads of a table word is what it reads of the word itself: its two bytes make it again (R63). -/
theorem decodeTableWord_eq (nbits w : Nat) : decodeTableWord nbits w = decodeWord (tableWord nbits w) := by
  simp only [decodeTableWord, decode, wordOfBytes_highByte_lowByte]
  cases decodeWord (tableWord nbits w) <;> rfl

theorem withFetchablePc_pc_lt (s : State) : s.withFetchablePc.pc.toNat + 1 < memSize := by
  unfold State.withFetchablePc
  split
  next h => exact h
  next => rw [State.setPc_pc]; decide

theorem fetches_placeWord {s : State} (w : Word) (h : s.pc.toNat + 1 < memSize) : (s.placeWord w).fetches w := by
  have high := Memory.read_writeBytes_inside s.mem s.pc.toNat (bytes := [highByte w, lowByte w]) (k := 0) (by simp)
  have low := Memory.read_writeBytes_inside s.mem s.pc.toNat (bytes := [highByte w, lowByte w]) (k := 1) (by simp)
  refine ⟨h, ?_⟩
  simp only [Nat.add_zero, List.getElem_cons_zero, List.getElem_cons_succ] at high low
  simp only [State.placeWord, State.setMem_mem, State.setMem_pc, high, low, wordOfBytes_highByte_lowByte]

/-- Settles O7: the placed bytes are the ones the next step fetches. -/
theorem placedInstructionIsRun : Obligations.PlacedInstructionIsRun := fun s w _ h =>
  step_of_fetches (fetches_placeWord _ (withFetchablePc_pc_lt s)) (decodeTableWord_eq 16 w ▸ h)

/-! ### A fetch beyond memory -/

theorem stepWith_of_pc_beyond (c : Config) {s : State} (h : 4095 ≤ s.pc.toNat) :
    stepWith c s = .fault (.outOfBounds (max s.pc.toNat 4096)) := by
  rcases stepVia_cases c (execWith c) s with ⟨-, e⟩ | ⟨hin, -⟩
  · exact e
  · omega

/-- Settles O8: of `pc` and `pc + 1` the lowest at 4096 or above is `pc` itself but at 4095. -/
theorem fetchBeyondMemoryFaults : Obligations.FetchBeyondMemoryFaults := by
  intro c s h
  have hlow : max s.pc.toNat 4096 = if s.pc.toNat = 4095 then 4096 else s.pc.toNat := by
    split <;> omega
  rw [stepWith_of_pc_beyond c h, hlow]

/-! ### An unrecognised word -/

theorem nextInstr_eq_none_of_fetches {s : State} {w : Word} (hw : s.fetches w) (hi : decodeWord w = none) :
    s.nextInstr = none := by
  simp only [State.nextInstr, (fetchWord_eq_ok s w).mpr hw, hi]

theorem nextUnknown_of_fetches {s : State} {w : Word} (hw : s.fetches w) (hi : decodeWord w = none) :
    s.nextUnknown = some w := by
  simp [State.nextUnknown, (fetchWord_eq_ok s w).mpr hw, hi]

theorem stepWith_of_unrecognised {c : Config} {s : State} {w : Word} (hw : s.fetches w) (hi : decodeWord w = none) :
    stepWith c s = unknownWord c w s := by
  simp only [stepWith, stepVia, (fetchWord_eq_ok s w).mpr hw, hi]

theorem waiting_eq_false_of_nextInstr {s : State} (h : ∀ x, s.nextInstr ≠ some (.ldVxK x)) : s.waiting = false := by
  rw [← Bool.not_eq_true, waiting_eq_true_iff]
  rintro ⟨x, hx, -⟩
  exact h x hx

/-- Completing changes pc alone. -/
theorem unchangedBut_done (s : State) : unchangedBut [] [] s s.done := unchangedBut_setPc s _

/-- Settles O9: the unrecognised word reaches the policy, which raises the fault or completes with no effect. -/
theorem unknownWordHaltsOrIsSkipped : Obligations.UnknownWordHaltsOrIsSkipped := by
  intro c s w hw hi
  have hstep (c : Config) : stepWith c s = unknownWord c w s := stepWith_of_unrecognised hw hi
  have hwait : s.waiting = false :=
    waiting_eq_false_of_nextInstr (by simp [nextInstr_eq_none_of_fetches hw hi])
  refine ⟨?_, fun hhalt => ?_, fun hskip => ⟨s.done, ?_, rfl, unchangedBut_done s⟩⟩
  · rw [← stepWith_hardware, hstep, unknownWord, hardware_unknownOpcode, raise]
  · simp only [stepReport, hwait, hstep, unknownWord, hhalt, raise, Bool.false_eq_true, if_false]
  · rw [stepReport_of_next hwait (t := s.done) (by rw [hstep, unknownWord, hskip]), nextUnknown_of_fetches hw hi]

/-! ### No refusal -/

theorem guardRange_ne_refused {start len : Nat} {body : Outcome} {r : Refusal} (h : body ≠ .refused r) :
    guardRange start len body ≠ .refused r := by
  rcases guardRange_cases start len body with ⟨-, e⟩ | ⟨-, e⟩ <;> rw [e]
  · exact h
  · nofun

theorem guardFont_ne_refused {c : Config} {start : Nat} {body : Outcome} {r : Refusal} (h : body ≠ .refused r) :
    guardFont c start body ≠ .refused r := by
  rcases guardFont_cases c start body with ⟨-, e⟩ | ⟨-, e⟩ <;> rw [e]
  · exact h
  · nofun

theorem withKey_ne_refused {v : Byte} {body : KeyIndex → Outcome} {r : Refusal} (h : ∀ k, body k ≠ .refused r) :
    withKey v body ≠ .refused r := by
  rcases withKey_cases v body with ⟨k, -, e⟩ | ⟨-, e⟩ <;> rw [e]
  · exact h k
  · nofun

theorem push_ne_refused {s : State} {v : Word} {body : State → Outcome} {r : Refusal} (h : ∀ t, body t ≠ .refused r) :
    push s v body ≠ .refused r := by
  rcases push_cases s v body with ⟨_, _, -, e⟩ | ⟨-, e⟩ <;> rw [e]
  · exact h _
  · nofun

theorem pop_ne_refused {s : State} {body : Word → State → Outcome} {r : Refusal}
    (h : ∀ v t, body v t ≠ .refused r) : pop s body ≠ .refused r := by
  rcases pop_cases s body with ⟨_, _, -, -, e⟩ | ⟨-, e⟩ <;> rw [e]
  · exact h _ _
  · nofun

theorem next_ne_refused (t : State) (r : Refusal) : (.next t : Outcome) ≠ .refused r := nofun

theorem execWith_ne_refused (c : Config) (i : Instr) (s : State) (r : Refusal) : execWith c i s ≠ .refused r := by
  cases i with
  | ret => exact show execRet s ≠ _ from pop_ne_refused fun _ _ => next_ne_refused _ r
  | call a => exact show execCall a s ≠ _ from push_ne_refused fun _ => next_ne_refused _ r
  | skp x => exact show execSkp x s ≠ _ from withKey_ne_refused fun _ => next_ne_refused _ r
  | sknp x => exact show execSknp x s ≠ _ from withKey_ne_refused fun _ => next_ne_refused _ r
  | drw | ldVxMem => exact guardRange_ne_refused (next_ne_refused _ r)
  | ldBVx | ldMemVx => exact guardRange_ne_refused (guardFont_ne_refused (next_ne_refused _ r))
  | ldVxK =>
    rw [execWith, execLdVxKWith]
    split
    · exact next_ne_refused _ r
    · exact next_ne_refused _ r
  | _ => exact next_ne_refused _ r

theorem stepWith_ne_refused (c : Config) (s : State) (r : Refusal) : stepWith c s ≠ .refused r := by
  rw [stepWith]
  rcases stepVia_cases c (execWith c) s with ⟨-, e⟩ | ⟨-, w, -, ⟨-, e⟩ | ⟨i, -, e⟩⟩ <;> rw [e]
  · nofun
  · unfold unknownWord
    split
    · nofun
    · nofun
  · exact execWith_ne_refused c i s r

/-- Settles O10: no meaning and no check of a step answers a refusal. -/
theorem nothingIsRefused : Obligations.NothingIsRefused := by
  refine ⟨execWith_ne_refused, fun i s r => execWith_hardware i s ▸ execWith_ne_refused _ i s r, fun c s r => ?_⟩
  unfold stepReport
  split
  next => nofun
  next =>
    cases h : stepWith c s with
    | next t => nofun
    | fault f => nofun
    | refused q => exact absurd h (stepWith_ne_refused c s q)

/-! ### The self-loop -/

theorem fetches_of_selfLoop {s : State} (h : s.selfLoop = true) :
    s.pc.toNat ≤ 0xFFE ∧ s.fetches (BitVec.ofNat 16 (0x1000 + s.pc.toNat)) := by
  unfold State.selfLoop at h
  split at h
  next w hf =>
    simp only [Bool.and_eq_true, decide_eq_true_eq, beq_iff_eq] at h
    exact ⟨h.1, h.2 ▸ (fetchWord_eq_ok s w).mp hf⟩
  next => cases h

/-- The word of a self-loop is the jump to its own address (R287). -/
theorem decodeWord_selfLoop {a : Word} (ha : a.toNat ≤ 0xFFE) :
    ∃ nnn, decodeWord (BitVec.ofNat 16 (0x1000 + a.toNat)) = some (.jp nnn) ∧ addrOperand nnn = a := by
  have hw : (BitVec.ofNat 16 (0x1000 + a.toNat)).toNat = 0x1000 + a.toNat := by
    rw [BitVec.toNat_ofNat]
    omega
  refine ⟨_, decodesUnder_jp _ (BitVec.eq_of_toNat_eq ?_), BitVec.eq_of_toNat_eq ?_⟩
  · rw [toNat_and_F000, hw]
    simp only [BitVec.reduceToNat]
    omega
  · rw [toNat_addrOperand, nnnField_toNat, hw]
    omega

/-- Settles O55: the jump of a self-loop sets pc to what it is, so the step's next state is the state. -/
theorem selfLoopChangesNothing : Obligations.SelfLoopChangesNothing := by
  intro c s h
  obtain ⟨hpc, hw⟩ := fetches_of_selfLoop h
  obtain ⟨nnn, hi, htarget⟩ := decodeWord_selfLoop hpc
  have hnext (c : Config) : stepWith c s = .next s := by
    rw [stepWith_of_nextInstr (nextInstr_of_fetches hw hi), execWith, execJp, htarget, State.setPc_self]
  have hwait : s.waiting = false :=
    waiting_eq_false_of_nextInstr (by simp [nextInstr_of_fetches hw hi])
  have hreport := stepReport_of_next hwait (hnext c)
  rw [nextUnknown_eq_none_of_fetches hw hi] at hreport
  exact ⟨(stepWith_hardware s).symm.trans (hnext _), hreport, hostOp_step_of_progressed hreport⟩

end Sys2Proof.Machine

/-! The arithmetic with flags, the bitwise operations, the shifts and the random byte (`42_alu.md` R173 to R181). -/

namespace Sys2Proof.Machine

open Sys2Proof

/-! ### The bitwise operations -/

/-- Settles O13: each writes V[x] alone, and a bit of a bitwise operation is the operation on the bits. -/
theorem bitwiseOperations : Obligations.BitwiseOperations :=
  ⟨⟨decodesUnder_orReg, fun x y s => ⟨(s.setReg x (s.reg x ||| s.reg y)).done, rfl,
      fun k => by rw [State.reg_done, State.reg_setReg_same, BitVec.getLsbD_or], rfl, unchangedBut_setReg_done s x _⟩⟩,
    ⟨decodesUnder_andReg, fun x y s => ⟨(s.setReg x (s.reg x &&& s.reg y)).done, rfl,
      fun k => by rw [State.reg_done, State.reg_setReg_same, BitVec.getLsbD_and], rfl, unchangedBut_setReg_done s x _⟩⟩,
    ⟨decodesUnder_xorReg, fun x y s => ⟨(s.setReg x (s.reg x ^^^ s.reg y)).done, rfl,
      fun k => by rw [State.reg_done, State.reg_setReg_same, BitVec.getLsbD_xor], rfl, unchangedBut_setReg_done s x _⟩⟩⟩

/-! ### A result and a flag -/

/-- An instruction that writes V[x] and then VF, and completes, leaves every other register and every part. -/
theorem unchangedBut_setResultFlag_done (s : State) (x : Reg) (p : Byte × Bool) :
    unchangedBut [x, vf] [] s (s.setResultFlag x p).done := by
  refine ⟨fun r hr => ?_, fun p _ => ?_⟩
  · simp only [List.mem_cons, List.not_mem_nil, or_false, not_or] at hr
    rw [State.reg_done, State.reg_setResultFlag_of_ne s _ hr.1 hr.2]
  · cases p with
    | memory => exact fun _ => rfl
    | _ => rfl

/-- What an instruction with a result `v` and a flag `b` leaves: V[x] is the result unless x is 15, VF is the flag
whatever x is (R23, R183; D5), pc + 2, and nothing else changes. -/
theorem setResultFlag_done_spec (s : State) (x : Reg) (p : Byte × Bool) {v : Nat} {b : Prop} [Decidable b]
    (hv : p.1.toNat = v) (hb : p.2 = decide b) :
    (x ≠ vf → ((s.setResultFlag x p).done.reg x).toNat = v) ∧
    (s.setResultFlag x p).done.reg vf = (if b then 1 else 0) ∧
    (s.setResultFlag x p).done.pc = s.pc + 2 ∧ unchangedBut [x, vf] [] s (s.setResultFlag x p).done := by
  refine ⟨fun hx => ?_, ?_, rfl, unchangedBut_setResultFlag_done s x p⟩
  · rw [State.reg_done, State.reg_setResultFlag_same s p hx, hv]
  · simp only [State.reg_done, State.reg_setResultFlag_vf, hb, decide_eq_true_eq]

theorem toNat_addCarry_fst (a b : Byte) : (addCarry a b).1.toNat = (a.toNat + b.toNat) % 256 := BitVec.toNat_add a b

theorem toNat_subNoBorrow_fst (a b : Byte) : (subNoBorrow a b).1.toNat = (a.toNat + 256 - b.toNat) % 256 := by
  simp only [subNoBorrow]
  bv_omega

/-- Settles O14: the sum and its carry are written as a result and a flag. -/
theorem addWithCarry : Obligations.AddWithCarry :=
  ⟨decodesUnder_addReg, fun x y s =>
    ⟨_, rfl, setResultFlag_done_spec s x (addCarry (s.reg x) (s.reg y)) (toNat_addCarry_fst _ _) rfl⟩⟩

/-- Settles O15: the two subtractions are one, with its operands exchanged. -/
theorem subtractWithNoBorrow : Obligations.SubtractWithNoBorrow :=
  ⟨decodesUnder_subReg, decodesUnder_subn,
    fun x y s => ⟨_, rfl, setResultFlag_done_spec s x (subNoBorrow (s.reg x) (s.reg y)) (toNat_subNoBorrow_fst _ _) rfl⟩,
    fun x y s => ⟨_, rfl, setResultFlag_done_spec s x (subNoBorrow (s.reg y) (s.reg x)) (toNat_subNoBorrow_fst _ _) rfl⟩⟩

/-! ### The shifts -/

theorem toNat_shiftRightOut_fst (v : Byte) : (shiftRightOut v).1.toNat = v.toNat / 2 := by
  rw [shiftRightOut, BitVec.toNat_ushiftRight, Nat.shiftRight_eq_div_pow, Nat.pow_one]

theorem shiftRightOut_snd (v : Byte) : (shiftRightOut v).2 = decide (v.toNat % 2 = 1) := by
  simp [shiftRightOut, BitVec.getLsbD, Nat.testBit_zero]

theorem toNat_shiftLeftOut_fst (v : Byte) : (shiftLeftOut v).1.toNat = v.toNat * 2 % 256 := by
  rw [shiftLeftOut, BitVec.toNat_shiftLeft, Nat.shiftLeft_eq, Nat.pow_one]

theorem shiftLeftOut_snd (v : Byte) : (shiftLeftOut v).2 = decide (v.toNat / 128 = 1) := by
  have := byte_lt v
  simp only [shiftLeftOut, BitVec.getLsbD, Nat.testBit_eq_decide_div_mod_eq]
  congr 1
  apply propext
  omega

/-- A flag byte as a number: the bit shifted out. -/
theorem toNat_flag {n : Nat} (h : n < 2) : ((if n = 1 then 1 else 0 : Byte)).toNat = n := by
  interval_cases n <;> rfl

theorem shiftRight_spec (s : State) (x : Reg) (v : Byte) :
    (x ≠ vf → ((s.setResultFlag x (shiftRightOut v)).done.reg x).toNat = v.toNat / 2) ∧
    ((s.setResultFlag x (shiftRightOut v)).done.reg vf).toNat = v.toNat % 2 ∧
    (s.setResultFlag x (shiftRightOut v)).done.pc = s.pc + 2 ∧
    unchangedBut [x, vf] [] s (s.setResultFlag x (shiftRightOut v)).done := by
  obtain ⟨hx, hf, hrest⟩ := setResultFlag_done_spec s x _ (toNat_shiftRightOut_fst v) (shiftRightOut_snd v)
  exact ⟨hx, by rw [hf, toNat_flag (by omega)], hrest⟩

theorem shiftLeft_spec (s : State) (x : Reg) (v : Byte) :
    (x ≠ vf → ((s.setResultFlag x (shiftLeftOut v)).done.reg x).toNat = v.toNat * 2 % 256) ∧
    ((s.setResultFlag x (shiftLeftOut v)).done.reg vf).toNat = v.toNat / 128 ∧
    (s.setResultFlag x (shiftLeftOut v)).done.pc = s.pc + 2 ∧
    unchangedBut [x, vf] [] s (s.setResultFlag x (shiftLeftOut v)).done := by
  have := byte_lt v
  obtain ⟨hx, hf, hrest⟩ := setResultFlag_done_spec s x _ (toNat_shiftLeftOut_fst v) (shiftLeftOut_snd v)
  exact ⟨hx, by rw [hf, toNat_flag (by omega)], hrest⟩

/-- Settles O16: on this hardware the operand is V[x] (D4), and the bit shifted out is the flag. -/
theorem shiftsOfVx : Obligations.ShiftsOfVx :=
  ⟨decodesUnder_shr, decodesUnder_shl, fun x _ s => ⟨_, rfl, shiftRight_spec s x (s.reg x)⟩,
    fun x _ s => ⟨_, rfl, shiftLeft_spec s x (s.reg x)⟩⟩

theorem toNat_shiftOperand (c : Config) (x y : Reg) (s : State) :
    (shiftOperand c x y s).toNat = if c.shiftSrc = .vx then (s.reg x).toNat else (s.reg y).toNat := by
  unfold shiftOperand
  cases c.shiftSrc <;> rfl

/-- Settles O17: under either `SHIFT_SRC` the shifts are those of the operand it selects. -/
theorem shiftsUnderEitherSource : Obligations.ShiftsUnderEitherSource := by
  intro c x y s src
  have hsrc : (shiftOperand c x y s).toNat = src := toNat_shiftOperand c x y s
  rw [← hsrc]
  exact ⟨⟨_, rfl, shiftRight_spec s x _⟩, ⟨_, rfl, shiftLeft_spec s x _⟩⟩

/-! ### The random byte -/

/-- A draw changes the model's count of draws besides V[x]. -/
theorem unchangedBut_drawn_setReg_done (s : State) (x : Reg) (v : Byte) :
    unchangedBut [x] [.draws] s (s.drawn.setReg x v).done := by
  refine ⟨fun r hr => ?_, fun p hp => ?_⟩
  · have hne : r ≠ x := by simpa using hr
    simp [hne]
  · cases p with
    | draws => simp at hp
    | memory => exact fun _ => rfl
    | _ => rfl

theorem execWith_rnd_spec (c : Config) (x : Reg) (nn : Byte) (s : State) : ∃ t, execWith c (.rnd x nn) s = .next t ∧
    (∀ k, (t.reg x).getLsbD k = (nn.getLsbD k && (c.rand s.draws).getLsbD k)) ∧
    t.draws = s.draws + 1 ∧ t.pc = s.pc + 2 ∧ unchangedBut [x] [.draws] s t := by
  refine ⟨(s.drawn.setReg x (c.rand s.draws &&& nn)).done, rfl, fun k => ?_, rfl, rfl,
    unchangedBut_drawn_setReg_done s x _⟩
  rw [State.reg_done, State.reg_setReg_same, BitVec.getLsbD_and, Bool.and_comm]

/-- Settles O18: the byte the source answers at this draw is masked, whatever the source is. -/
theorem randomByteIsMasked : Obligations.RandomByteIsMasked :=
  ⟨decodesUnder_rnd, execWith_rnd_spec, execWith_rnd_spec Config.hardware, fun r x nn s =>
    ⟨(s.setReg x (r &&& nn)).done, rfl, s.reg_setReg_same x _, rfl, unchangedBut_setReg_done s x _⟩⟩

end Sys2Proof.Machine

/-! The skips on registers, the call and the return with their faults (`41_control_flow.md` R140 to R146). -/

namespace Sys2Proof.Machine

open Sys2Proof

/-- Settles O20: 5XY0 and 9XY0 are one skip, on equality and on its negation. -/
theorem registerSkips : Obligations.RegisterSkips :=
  ⟨⟨decodesUnder_seReg, fun x y s =>
      ⟨s.skipIf (s.reg x == s.reg y), rfl, fun h => by simp [h], fun h => by simp [h], unchangedBut_skipIf s _⟩⟩,
    ⟨decodesUnder_sneReg, fun x y s =>
      ⟨s.skipIf (s.reg x != s.reg y), rfl, fun h => by simp [h], fun h => by simp [h], unchangedBut_skipIf s _⟩⟩⟩

/-- 2NNN completes where an entry is free: its own pc is the new top entry (R142). -/
theorem exec_call_of_sp (nnn : Addr12) {s : State} (h : s.sp.val < 16) : ∃ p : Fin 17, p.val = s.sp.val + 1 ∧
    exec (.call nnn) s =
      .next (({ s with stack := s.stack.set s.sp.val s.pc, sp := p } : State).setPc (addrOperand nnn)) := by
  rcases push_cases s s.pc fun s' => .next (s'.setPc (addrOperand nnn)) with ⟨_, p, hp, e⟩ | ⟨hfull, -⟩
  · exact ⟨p, hp, e⟩
  · omega

theorem exec_call_of_full (nnn : Addr12) {s : State} (h : s.sp.val = 16) :
    exec (.call nnn) s = .fault (.stackOverflow s.pc) := by
  rcases push_cases s s.pc fun s' => .next (s'.setPc (addrOperand nnn)) with ⟨hlt, -⟩ | ⟨-, e⟩
  · omega
  · exact e

theorem exec_ret_of_empty {s : State} (h : s.sp.val = 0) : exec .ret s = .fault (.stackUnderflow s.pc) := by
  rcases pop_cases s fun v s' => .next (s'.setPc (v + 2)) with ⟨k, _, hk, -⟩ | ⟨-, e⟩
  · omega
  · exact e

theorem unchangedBut_push_setPc (s : State) (stack : Vector Word 16) (p : Fin 17) (v : Word) :
    unchangedBut [] [.stack, .sp] s (({ s with stack := stack, sp := p } : State).setPc v) := by
  refine ⟨fun r _ => rfl, fun p hp => ?_⟩
  cases p with
  | stack | sp => simp at hp
  | memory => exact fun _ => rfl
  | _ => rfl

theorem unchangedBut_pop_setPc (s : State) (p : Fin 17) (v : Word) :
    unchangedBut [] [.sp] s (({ s with sp := p } : State).setPc v) := by
  refine ⟨fun r _ => rfl, fun p hp => ?_⟩
  cases p with
  | sp => simp at hp
  | memory => exact fun _ => rfl
  | _ => rfl

/-- Settles O22: the push writes the entry at `sp` alone, or finds none free. -/
theorem callPushesItsOwnAddress : Obligations.CallPushesItsOwnAddress := by
  refine ⟨decodesUnder_call, fun nnn s h => ?_, fun nnn s h => exec_call_of_full nnn h⟩
  obtain ⟨p, hp, hexec⟩ := exec_call_of_sp nnn h
  refine ⟨_, hexec, hp, fun k => ?_, toNat_addrOperand nnn, unchangedBut_push_setPc s _ p _⟩
  simp [Vector.getElem_set, eq_comm]

/-- Settles O23: the pop reads the top entry and leaves it, or finds none in use. -/
theorem returnPopsPlusTwo : Obligations.ReturnPopsPlusTwo := by
  refine ⟨decodesUnder_ret, fun s k h => ?_, fun s h => exec_ret_of_empty h⟩
  obtain ⟨p, hp, hexec⟩ := exec_ret_of_sp h
  exact ⟨_, hexec, rfl, hp, unchangedBut_pop_setPc s p _⟩

end Sys2Proof.Machine

/-! Adding to the index register, and the instructions that move bytes between registers and memory
(`43_index_memory.md` R201, R203 to R206). -/

namespace Sys2Proof.Machine

open Sys2Proof

/-! ### FX1E -/

theorem toNat_indexAdd_fst (i : Word) (v : Byte) : (indexAdd i v).1.toNat = (i.toNat + v.toNat) % 65536 := by
  have := byte_lt v
  simp only [indexAdd, BitVec.toNat_add, BitVec.toNat_setWidth]
  omega

theorem unchangedBut_setI_setFlag_done (s : State) (v : Word) (f : Bool) :
    unchangedBut [vf] [.index] s ((s.setI v).setFlag f).done := by
  refine ⟨fun r hr => ?_, fun p hp => ?_⟩
  · have hne : r ≠ vf := by simpa using hr
    rw [State.reg_done, State.reg_setFlag_of_ne _ f hne, State.reg_setI]
  · cases p with
    | index => simp at hp
    | memory => exact fun _ => rfl
    | _ => rfl

/-- Settles O26: I is the wrapped sum, and the flag is of the sum before the wrap. -/
theorem indexAddFlagsAboveTwelveBits : Obligations.IndexAddFlagsAboveTwelveBits := by
  refine ⟨decodesUnder_addIVx, fun x s => ⟨_, rfl, toNat_indexAdd_fst s.I (s.reg x), ?_, rfl,
    unchangedBut_setI_setFlag_done s _ _⟩⟩
  simp [indexAdd]

/-! ### The stores, where they complete -/

/-- A store the font rule lets through: the font is not protected, or the store begins above it (R71). -/
theorem guardFont_of_allowed {c : Config} {start : Nat} (body : Outcome)
    (h : c.fontProtect = false ∨ 0x050 ≤ start) : guardFont c start body = body :=
  h.elim (guardFont_of_unprotected start body) (guardFont_of_le c body)

theorem execWith_ldBVx_of_le {c : Config} {s : State} (x : Reg) (hr : s.I.toNat + 2 ≤ 4095)
    (hf : c.fontProtect = false ∨ 0x050 ≤ s.I.toNat) :
    execWith c (.ldBVx x) s = .next (s.setMem (s.mem.writeBytes s.I.toNat (bcdDigits (s.reg x)))).done := by
  rw [execWith, execLdBVxWith, guardRange_of_le _ (by omega), guardFont_of_allowed _ hf]

theorem execWith_ldMemVx_of_le {c : Config} {s : State} {x : Reg} (hr : s.I.toNat + x.val ≤ 4095)
    (hf : c.fontProtect = false ∨ 0x050 ≤ s.I.toNat) : execWith c (.ldMemVx x) s =
      .next ((s.setMem (s.mem.writeBytes s.I.toNat (s.regsUpTo x))).bumpI x).done := by
  rw [execWith, execLdMemVxWith, guardRange_of_le _ (by omega), guardFont_of_allowed _ hf]

theorem unchangedBut_setMem_done (s : State) (m : Memory) : unchangedBut [] [.memory] s (s.setMem m).done := by
  refine ⟨fun r _ => rfl, fun p hp => ?_⟩
  cases p with
  | memory => simp at hp
  | _ => rfl

theorem unchangedBut_setMem_bumpI_done (s : State) (m : Memory) (x : Reg) :
    unchangedBut [] [.memory, .index] s ((s.setMem m).bumpI x).done := by
  refine ⟨fun r _ => rfl, fun p hp => ?_⟩
  cases p with
  | memory | index => simp at hp
  | _ => rfl

/-- After bytes are written from `a` on, memory differs there alone. -/
theorem sameMemoryOutside_of_writeBytes {s t : State} {a n : Nat} {bytes : List Byte}
    (ht : t.mem = s.mem.writeBytes a bytes) (hn : bytes.length = n) : sameMemoryOutside a n s t := fun b hb => by
  rw [ht, Memory.read_writeBytes_outside _ (hn ▸ hb)]

/-- I has room for the post-increment while the range stays in memory (R206). -/
theorem toNat_bumpI {s : State} {x : Reg} (h : s.I.toNat + x.val ≤ 4095) :
    (s.I + BitVec.ofNat 16 (x.val + 1)).toNat = s.I.toNat + x.val + 1 := by
  rw [BitVec.toNat_add, BitVec.toNat_ofNat]
  omega

/-- FX33 where it completes: the hundreds, tens and units of V[x] from I on, and no other effect (R203). -/
theorem ldBVx_spec {c : Config} {s : State} (x : Reg) (hr : s.I.toNat + 2 ≤ 4095)
    (hf : c.fontProtect = false ∨ 0x050 ≤ s.I.toNat) : ∃ t, execWith c (.ldBVx x) s = .next t ∧
      (t.mem.read s.I.toNat).toNat = (s.reg x).toNat / 100 ∧
      (t.mem.read (s.I.toNat + 1)).toNat = (s.reg x).toNat / 10 % 10 ∧
      (t.mem.read (s.I.toNat + 2)).toNat = (s.reg x).toNat % 10 ∧
      sameMemoryOutside s.I.toNat 3 s t ∧ t.pc = s.pc + 2 ∧ unchangedBut [] [.memory] s t := by
  have hv := byte_lt (s.reg x)
  have hread (k : Nat) (h : k < (bcdDigits (s.reg x)).length) :=
    Memory.read_writeBytes_inside s.mem s.I.toNat h
  have h0 := congrArg BitVec.toNat (hread 0 (by simp))
  have h1 := congrArg BitVec.toNat (hread 1 (by simp))
  have h2 := congrArg BitVec.toNat (hread 2 (by simp))
  simp only [bcdDigits, List.getElem_cons_zero, List.getElem_cons_succ, BitVec.toNat_ofNat, Nat.add_zero] at h0 h1 h2
  refine ⟨_, execWith_ldBVx_of_le x hr hf, h0.trans ?_, h1.trans ?_, h2.trans ?_,
    sameMemoryOutside_of_writeBytes rfl rfl, rfl, unchangedBut_setMem_done s _⟩
  all_goals omega

/-- FX55 where it completes: V0 to V[x] from I on, I past them, and no other effect (R204, R206). -/
theorem ldMemVx_spec {c : Config} {s : State} {x : Reg} (hr : s.I.toNat + x.val ≤ 4095)
    (hf : c.fontProtect = false ∨ 0x050 ≤ s.I.toNat) : ∃ t, execWith c (.ldMemVx x) s = .next t ∧
      (∀ k : Reg, k.val ≤ x.val → t.mem.read (s.I.toNat + k.val) = s.reg k) ∧
      sameMemoryOutside s.I.toNat (x.val + 1) s t ∧ t.I.toNat = s.I.toNat + x.val + 1 ∧ t.pc = s.pc + 2 ∧
      unchangedBut [] [.memory, .index] s t := by
  refine ⟨_, execWith_ldMemVx_of_le hr hf, fun k hk => ?_, sameMemoryOutside_of_writeBytes rfl (length_regsUpTo s x),
    toNat_bumpI hr, rfl, unchangedBut_setMem_bumpI_done s _ x⟩
  have hlen : k.val < (s.regsUpTo x).length := by rw [length_regsUpTo]; omega
  simp only [State.done_mem, State.bumpI_mem, State.setMem_mem, Memory.read_writeBytes_inside _ _ hlen,
    getElem_regsUpTo]

/-- Settles O27: the digits are the quotients of V[x], so they make it up. -/
theorem bcdStoresThreeDigits : Obligations.BcdStoresThreeDigits := by
  refine ⟨decodesUnder_ldBVx, fun x s hfont hr => ?_⟩
  obtain ⟨t, hexec, h0, h1, h2, hrest⟩ := ldBVx_spec (c := Config.hardware) x hr (.inr hfont)
  have hv := byte_lt (s.reg x)
  refine ⟨t, (execWith_hardware _ s).symm.trans hexec, ?_, hrest⟩
  simp only [Nat.add_zero, h0, h1, h2]
  omega

/-- Settles O28: the font is below the range and memory's end above it, so the store completes. -/
theorem storeRegistersAtIndex : Obligations.StoreRegistersAtIndex := by
  refine ⟨decodesUnder_ldMemVx, fun x s hfont hr => ?_⟩
  have hspec := ldMemVx_spec (c := Config.hardware) hr (.inr hfont)
  rwa [execWith_hardware] at hspec

/-- Settles O30: with the font unprotected the stores complete wherever the range is in memory. -/
theorem unprotectedStoresWriteTheFont : Obligations.UnprotectedStoresWriteTheFont := fun _ x _ hc =>
  ⟨fun hr => ldBVx_spec x hr (.inl hc), fun hr => ldMemVx_spec hr (.inl hc)⟩

/-! ### The stores, where they fault -/

theorem guardFont_of_lt {start : Nat} (body : Outcome) (h : start < 0x050) :
    guardFont Config.hardware start body = .fault (.fontWrite start) := if_pos ⟨rfl, h⟩

/-- Settles O29: the bound is checked first, and a range that begins in the font cannot pass it. -/
theorem storesFaultBeyondMemoryAndOnTheFont : Obligations.StoresFaultBeyondMemoryAndOnTheFont := by
  refine ⟨fun x s h => guardRange_of_lt _ (by omega), fun x s h => guardRange_of_lt _ (by omega),
    fun x y s h => ⟨?_, ?_⟩⟩
  · rw [exec, execLdBVx, execLdBVxWith, guardRange_of_le _ (by omega), guardFont_of_lt _ h]
  · rw [exec, execLdMemVx, execLdMemVxWith, guardRange_of_le _ (by omega), guardFont_of_lt _ h]

/-! ### FX65 -/

theorem exec_ldVxMem_of_le {s : State} {x : Reg} (hr : s.I.toNat + x.val ≤ 4095) :
    exec (.ldVxMem x) s = .next ((s.loadRegs x).bumpI x).done := guardRange_of_le _ (by omega)

theorem unchangedBut_loadRegs_bumpI_done (s : State) (x : Reg) :
    unchangedBut ((List.finRange 16).filter fun k => k.val ≤ x.val) [.index] s ((s.loadRegs x).bumpI x).done := by
  refine ⟨fun r hr => ?_, fun p hp => ?_⟩
  · have hr : ¬ r.val ≤ x.val := by simpa using hr
    rw [State.reg_done, State.reg_bumpI, State.reg_loadRegs, if_neg hr]
  · cases p with
    | index => simp at hp
    | _ => simp [Part.same]

/-- Settles O31: the bound lets the range through or faults, and the loaded registers are the bytes at I. -/
theorem loadRegistersFromIndex : Obligations.LoadRegistersFromIndex := by
  refine ⟨decodesUnder_ldVxMem, fun x s hr => ?_, fun x s h => ?_⟩
  · refine ⟨_, exec_ldVxMem_of_le hr, fun k => ?_, ?_, by simp, unchangedBut_loadRegs_bumpI_done s x⟩
    · rw [State.reg_done, State.reg_bumpI, State.reg_loadRegs, State.ea]
    · rw [State.done_I, State.bumpI_I, State.loadRegs_I, toNat_bumpI hr]
  · exact guardRange_of_lt _ (by omega)

/-- Settles O32: the range the store checked is the one the load reads, and each byte reads back. -/
theorem loadAfterStoreGivesTheRegistersBack : Obligations.LoadAfterStoreGivesTheRegistersBack := by
  intro x s t u h hmem hI
  have hback (k : Reg) := read_exec_ldMemVx (k := k) h
  obtain ⟨-, hrange, rfl⟩ := exec_ldMemVx_next h
  refine ⟨_, exec_ldVxMem_of_le (by rw [hI]; omega), fun k hk => ?_, ?_⟩
  · rw [State.reg_done, State.reg_bumpI, State.reg_loadRegs, if_pos hk, State.ea, hmem, hI, hback k hk]
  · simp only [State.done_I, State.bumpI_I, State.loadRegs_I, State.setMem_I, hI]

end Sys2Proof.Machine

/-! DXYN in closed form (`40_display.md` R121, R122, R124). -/

namespace Sys2Proof.Machine

open Sys2Proof

/-- Bit `b` of row `r` lands on pixel `p` exactly when `b` and `r` are the distances of `p` from the sprite's corner,
modulo the width and the height (R121, R122). -/
theorem pixelIndex_eq_iff {xs ys r b p : Nat} (hr : r < 32) (hb : b < 64) (hp : p < 2048) :
    pixelIndex xs ys r b = p ↔ b = (p % 64 + (64 - xs % 64)) % 64 ∧ r = (p / 64 + (32 - ys % 32)) % 32 := by
  simp only [pixelIndex]
  omega

/-- The pixels of a sprite are those its closed form covers. -/
theorem mem_spritePixels_iff_spriteCovers (s : State) (xs ys : Nat) (n : RowCount) {p : Nat} (hp : p < 2048) :
    p ∈ spritePixels xs ys 0 (s.bytesAtI n.val) ↔ s.spriteCovers xs ys n.val p = true := by
  have hn := n.isLt
  simp only [mem_spritePixels, length_bytesAtI, getElem_bytesAtI, spriteBit, Nat.zero_add, State.spriteCovers,
    Bool.and_eq_true, decide_eq_true_eq]
  constructor
  · rintro ⟨r, hr, b, hb, hbit, hpix⟩
    obtain ⟨rfl, rfl⟩ := (pixelIndex_eq_iff (by omega) (by omega) hp).mp hpix
    exact ⟨⟨hr, hb⟩, hbit⟩
  · rintro ⟨⟨hr, hb⟩, hbit⟩
    exact ⟨_, hr, _, hb, hbit, (pixelIndex_eq_iff (by omega) (by omega) hp).mpr ⟨rfl, rfl⟩⟩

/-- A sprite collides when one of its pixels was lit. -/
theorem spriteCollides_iff (s : State) (xs ys : Nat) (n : RowCount) : s.spriteCollides xs ys n.val ↔
    (drawSprite xs ys (s.bytesAtI n.val) s.fb).2 = true := by
  rw [(drawSprite_spec (length_bytesAtI_rowCount_le s n) s.fb).2]
  constructor
  · rintro ⟨p, hp, hlit, hcovers⟩
    exact ⟨p, (mem_spritePixels_iff_spriteCovers s xs ys n hp).mpr hcovers, hlit⟩
  · rintro ⟨p, hmem, hlit⟩
    have hp : p < 2048 := by
      obtain ⟨_, _, _, _, _, rfl⟩ := (mem_spritePixels ..).mp hmem
      exact pixelIndex_lt ..
    exact ⟨p, hp, hlit, (mem_spritePixels_iff_spriteCovers s xs ys n hp).mp hmem⟩

theorem unchangedBut_setFrame_setFlag_done (s : State) (fb : Framebuffer) (f : Bool) :
    unchangedBut [vf] [.pixels, .dirty] s ((s.setFrame fb).setFlag f).done := by
  refine ⟨fun r hr => ?_, fun p hp => ?_⟩
  · have hne : r ≠ vf := by simpa using hr
    rw [State.reg_done, State.reg_setFlag_of_ne _ f hne, State.reg_setFrame]
  · cases p with
    | pixels | dirty => simp at hp
    | memory => exact fun _ => rfl
    | _ => rfl

/-- Settles O35: the drawn framebuffer flips the sprite's pixels, which are those the closed form covers. -/
theorem drawXorsTheSpriteWrapping : Obligations.DrawXorsTheSpriteWrapping := by
  refine ⟨decodesUnder_drw, fun x y n s h => ?_, fun x y n s h0 h => guardRange_of_lt _ (by omega)⟩
  obtain ⟨d, rfl, hexec⟩ := exec_drw_of_le x y (n := n) (s := s) (by omega)
  refine ⟨_, hexec, fun p hp => ?_, fun hc => ?_, fun hc => ?_, rfl, rfl, unchangedBut_setFrame_setFlag_done s _ _⟩
  · rw [State.done_fb, State.setFlag_fb, State.setFrame_fb, (drawSprite_spec (length_bytesAtI_rowCount_le s n) _).1]
    simp only [mem_spritePixels_iff_spriteCovers s _ _ n hp, Bool.decide_eq_true]
  · rw [State.reg_done, State.reg_setFlag_vf, if_pos ((spriteCollides_iff s _ _ n).mp hc)]
  · rw [State.reg_done, State.reg_setFlag_vf, if_neg fun hd => hc ((spriteCollides_iff s _ _ n).mpr hd)]

end Sys2Proof.Machine

/-! The skips on a key and FX0A (`44_keys_timers.md` R230, R231, R233 to R236). -/

namespace Sys2Proof.Machine

open Sys2Proof

/-! ### EX9E and EXA1 -/

theorem exec_skp_of_eq {x : Reg} {s : State} {k : KeyIndex} (h : (s.reg x).toNat = k.val) :
    exec (.skp x) s = .next (s.skipIf (s.isPressed k)) := by
  rw [exec, execSkp, withKey_of_eq _ h]

theorem exec_sknp_of_eq {x : Reg} {s : State} {k : KeyIndex} (h : (s.reg x).toNat = k.val) :
    exec (.sknp x) s = .next (s.skipIf (!s.isPressed k)) := by
  rw [exec, execSknp, withKey_of_eq _ h]

theorem withKey_of_lt {v : Byte} (body : KeyIndex → Outcome) (h : 15 < v.toNat) :
    withKey v body = .fault (.keyOutOfBounds v) := dif_neg (by omega)

theorem skipIf_pc_ite (s : State) (taken : Bool) :
    (s.skipIf taken).pc = if taken = true then s.pc + 4 else s.pc + 2 := by
  cases taken <;> rfl

theorem skipIf_not_pc_ite (s : State) (taken : Bool) :
    (s.skipIf (!taken)).pc = if taken = true then s.pc + 2 else s.pc + 4 := by
  cases taken <;> rfl

/-- Settles O37: with the index of a key the skip is on its latch, and above 15 there is no key. -/
theorem keySkips : Obligations.KeySkips :=
  ⟨decodesUnder_skp, decodesUnder_sknp,
    fun _ s k h => ⟨⟨_, exec_skp_of_eq h, skipIf_pc_ite s _, unchangedBut_skipIf s _⟩,
      ⟨_, exec_sknp_of_eq h, skipIf_not_pc_ite s _, unchangedBut_skipIf s _⟩⟩,
    fun _ _ h => ⟨by rw [exec, execSkp, withKey_of_lt _ h], by rw [exec, execSknp, withKey_of_lt _ h]⟩⟩

/-! ### FX0A on this hardware -/

theorem toNat_ofNat_keyIndex (k : KeyIndex) : (BitVec.ofNat 8 k.val).toNat = k.val := by
  rw [BitVec.toNat_ofNat]
  omega

/-- The first of the pressed keys is the pressed key below which none is pressed. -/
theorem pressedKeys_eq_cons {s : State} {k : KeyIndex} (hk : s.key[k.val] = true)
    (hlow : ∀ j : KeyIndex, j.val < k.val → s.key[j.val] = false) : ∃ ks, s.pressedKeys = k :: ks := by
  cases h : s.pressedKeys with
  | nil => simp [(pressedKeys_eq_nil s).mp h k] at hk
  | cons j ks =>
    have hj : s.key[j.val] = true := (mem_pressedKeys s j).mp (by simp [h])
    have hle : j.val ≤ k.val := pressedKeys_head_le h k hk
    have hge : ¬ j.val < k.val := fun hlt => by simp [hlow j hlt] at hj
    exact ⟨ks, by rw [Fin.ext (show j.val = k.val by omega)]⟩

/-- With a key pressed FX0A completes with the key its configuration chooses (R233 to R235). -/
theorem execWith_ldVxK_of_cons (c : Config) (x : Reg) {s : State} {k : KeyIndex} {ks : List KeyIndex}
    (h : s.pressedKeys = k :: ks) : execWith c (.ldVxK x) s =
      .next ((afterTaking c (chooseKey c k s) (afterChoice c s)).setReg x
        (BitVec.ofNat 8 (chooseKey c k s).val)).done := by
  rw [execWith, execLdVxKWith, h]

/-- Settles O39: the first of the pressed keys is the lowest, and with none the instruction answers its state. -/
theorem keyWaitTakesTheLowestPressed : Obligations.KeyWaitTakesTheLowestPressed := by
  refine ⟨decodesUnder_ldVxK, fun x s k hk hlow => ?_, fun x s h => ?_⟩
  · obtain ⟨ks, hkeys⟩ := pressedKeys_eq_cons hk hlow
    have hexec := execWith_ldVxK_of_cons Config.hardware x hkeys
    rw [execWith_hardware, chooseKey_hardware, afterChoice_hardware, afterTaking_hardware] at hexec
    refine ⟨_, hexec, ?_, rfl, unchangedBut_setReg_done s x _⟩
    rw [State.reg_done, State.reg_setReg_same, toNat_ofNat_keyIndex]
  · rw [← execWith_hardware, execWith_ldVxK_of_pressedKeys_eq_nil x ((pressedKeys_eq_nil s).mpr h)]

/-! ### FX0A under every configuration -/

theorem unchangedBut.trans {regs regs' : List Reg} {parts parts' : List Part} {s t u : State}
    (h : unchangedBut regs parts s t) (h' : unchangedBut regs' parts' t u) :
    unchangedBut (regs ++ regs') (parts ++ parts') s u := by
  refine ⟨fun r hr => ?_, fun p hp => ?_⟩
  · rw [List.mem_append, not_or] at hr
    exact (h'.1 r hr.2).trans (h.1 r hr.1)
  · rw [List.mem_append, not_or] at hp
    have ht := h.2 p hp.1
    have hu := h'.2 p hp.2
    cases p with
    | memory => exact fun a => (hu a).trans (ht a)
    | _ => exact Eq.trans hu ht

theorem chooseKey_mem_pressedKeys {c : Config} {s : State} {k : KeyIndex} {ks : List KeyIndex}
    (h : s.pressedKeys = k :: ks) : chooseKey c k s ∈ s.pressedKeys := by
  unfold chooseKey
  split
  · simp [h]
  · have hlt : c.keyPick s.keyDraws % s.pressedKeys.length < s.pressedKeys.length :=
      Nat.mod_lt _ (by simp [h])
    rw [List.getD_eq_getElem _ _ hlt]
    exact List.getElem_mem hlt

theorem unchangedBut_afterChoice (c : Config) (s : State) : unchangedBut [] [.keyDraws] s (afterChoice c s) := by
  unfold afterChoice
  refine ⟨fun r _ => ?_, fun p hp => ?_⟩
  · split <;> rfl
  · cases p with
    | keyDraws => simp at hp
    | memory => split <;> exact fun _ => rfl
    | _ => split <;> rfl

theorem unchangedBut_afterTaking (c : Config) (k : KeyIndex) (s : State) :
    unchangedBut [] [.keys] s (afterTaking c k s) := by
  unfold afterTaking
  refine ⟨fun r _ => ?_, fun p hp => ?_⟩
  · split <;> rfl
  · cases p with
    | keys => simp at hp
    | memory => split <;> exact fun _ => rfl
    | _ => split <;> rfl

theorem afterTaking_pc (c : Config) (k : KeyIndex) (s : State) : (afterTaking c k s).pc = s.pc := by
  unfold afterTaking
  split <;> rfl

theorem afterChoice_pc (c : Config) (s : State) : (afterChoice c s).pc = s.pc := by
  unfold afterChoice
  split <;> rfl

theorem key_afterTaking (c : Config) (k j : KeyIndex) (s : State) : (afterTaking c k s).key[j.val] =
    if j = k ∧ c.fx0aClearsLatch = true then false else s.key[j.val] := by
  unfold afterTaking
  split <;> simp_all [Vector.getElem_set, Fin.ext_iff, eq_comm]

/-- Settles O40: the chosen key is one of the pressed ones, and what is done after the choice writes its latch and the
count of draws at most. -/
theorem keyWaitUnderEveryConfiguration : Obligations.KeyWaitUnderEveryConfiguration := by
  rintro c x s ⟨j, hj⟩
  obtain ⟨low, ks, hkeys⟩ := List.exists_cons_of_ne_nil (List.ne_nil_of_mem ((mem_pressedKeys s j).mpr hj))
  have hchoice := unchangedBut_afterChoice c s
  refine ⟨_, chooseKey c low s, execWith_ldVxK_of_cons c x hkeys,
    (mem_pressedKeys s _).mp (chooseKey_mem_pressedKeys hkeys), ?_, fun hlowest i hi => ?_, fun i => ?_, ?_, ?_⟩
  · rw [State.reg_done, State.reg_setReg_same, toNat_ofNat_keyIndex]
  · rw [chooseKey, hlowest]
    exact pressedKeys_head_le hkeys i hi
  · have hsame : (afterChoice c s).key = s.key := hchoice.2 .keys (by simp)
    simp only [State.done_key, State.setReg_key, key_afterTaking, hsame]
  · rw [State.done_pc, State.setReg_pc, afterTaking_pc, afterChoice_pc]
  · have hall := (hchoice.trans (unchangedBut_afterTaking c (chooseKey c low s) _)).trans
      (unchangedBut_setReg_done _ x (BitVec.ofNat 8 (chooseKey c low s).val))
    exact ⟨fun r hr => hall.1 r (by simpa using hr), fun p hp => hall.2 p (by simpa [or_comm] using hp)⟩

end Sys2Proof.Machine

/-! What each instruction writes, where it leaves pc, and which faults it raises (`10_state.md` R21 to R42;
`60_exceptions.md` R267). -/

namespace Sys2Proof.Machine

open Sys2Proof

/-! ### The frame of every instruction -/

/-- The general registers an instruction may change: its destination, VF of the flag writers (R29), and those FX65
loads. -/
def regsWritten : Instr → List Reg
  | .ldImm x _ | .addImm x _ | .rnd x _ => [x]
  | .ldReg x _ | .orReg x _ | .andReg x _ | .xorReg x _ => [x]
  | .addReg x _ | .subReg x _ | .shr x _ | .subn x _ | .shl x _ => [x, vf]
  | .drw _ _ _ | .addIVx _ => [vf]
  | .ldVxDt x | .ldVxK x => [x]
  | .ldVxMem x => (List.finRange 16).filter fun k => k.val ≤ x.val
  | _ => []

/-- The parts of the state an instruction may change. -/
def partsWritten : Instr → List Part
  | .cls | .drw _ _ _ => [.pixels, .dirty]
  | .ret => [.sp]
  | .call _ => [.stack, .sp]
  | .ldI _ | .addIVx _ | .ldFVx _ | .ldVxMem _ => [.index]
  | .rnd _ _ => [.draws]
  | .ldDtVx _ => [.delay]
  | .ldStVx _ => [.sound]
  | .ldBVx _ => [.memory]
  | .ldMemVx _ => [.memory, .index]
  | _ => []

theorem unchangedBut_refl (regs : List Reg) (parts : List Part) (s : State) : unchangedBut regs parts s s := by
  refine ⟨fun r _ => rfl, fun p _ => ?_⟩
  cases p with
  | memory => exact fun _ => rfl
  | _ => rfl

/-- An instruction that answers a next state leaves every register and part it does not write. -/
theorem unchangedBut_of_exec {i : Instr} {s t : State} (h : exec i s = .next t) :
    unchangedBut (regsWritten i) (partsWritten i) s t := by
  cases i with
  | cls => cases h; exact unchangedBut_setFrame_done s 0
  | ret => obtain ⟨k, p, -, -, rfl⟩ := exec_ret_next h; exact unchangedBut_pop_setPc s p _
  | call a => obtain ⟨_, p, -, rfl⟩ := exec_call_next h; exact unchangedBut_push_setPc s _ p _
  | jp | jpV0 | seImm | sneImm | seReg | sneReg => cases h; exact unchangedBut_setPc s _
  | skp x => obtain ⟨k, -, rfl⟩ := exec_skp_next h; exact unchangedBut_skipIf s _
  | sknp x => obtain ⟨k, -, rfl⟩ := exec_sknp_next h; exact unchangedBut_skipIf s _
  | ldImm x | addImm x | ldReg x | orReg x | andReg x | xorReg x | ldVxDt x =>
    cases h; exact unchangedBut_setReg_done s x _
  | addReg x | subReg x | shr x | subn x | shl x => cases h; exact unchangedBut_setResultFlag_done s x _
  | rnd x => cases h; exact unchangedBut_drawn_setReg_done s x _
  | ldI | ldFVx => cases h; exact unchangedBut_setI_done s _
  | addIVx => cases h; exact unchangedBut_setI_setFlag_done s _ _
  | drw => obtain ⟨-, d, -, rfl⟩ := exec_drw_next h; exact unchangedBut_setFrame_setFlag_done s _ _
  | ldDtVx x => cases h; exact unchangedBut_setDT_done s _
  | ldStVx x => cases h; exact unchangedBut_setST_done s _
  | ldBVx => obtain ⟨-, -, rfl⟩ := exec_ldBVx_next h; exact unchangedBut_setMem_done s _
  | ldMemVx x => obtain ⟨-, -, rfl⟩ := exec_ldMemVx_next h; exact unchangedBut_setMem_bumpI_done s _ x
  | ldVxMem x => obtain ⟨-, rfl⟩ := exec_ldVxMem_next h; exact unchangedBut_loadRegs_bumpI_done s x
  | ldVxK x =>
    rcases exec_ldVxK_next h with ⟨-, rfl⟩ | ⟨k, ks, -, rfl⟩
    · exact unchangedBut_refl _ _ t
    · exact unchangedBut_setReg_done s x _

theorem mem_regsWritten_of_ne {i : Instr} {s t : State} {r : Reg} (h : exec i s = .next t) (hr : t.reg r ≠ s.reg r) :
    r ∈ regsWritten i := not_imp_comm.mp ((unchangedBut_of_exec h).1 r) hr

theorem mem_partsWritten_of_not_same {i : Instr} {s t : State} {p : Part} (h : exec i s = .next t)
    (hp : ¬ Part.same s t p) : p ∈ partsWritten i := not_imp_comm.mp ((unchangedBut_of_exec h).2 p) hp

/-! ### The writers of each part -/

/-- A register an instruction writes is its destination, one that FX65 loads, or VF of a flag writer. -/
theorem writer_of_mem_regsWritten {i : Instr} {r : Reg} (h : r ∈ regsWritten i) :
    (∃ nn, i = .ldImm r nn ∨ i = .addImm r nn ∨ i = .rnd r nn) ∨
    (∃ y, i = .ldReg r y ∨ i = .orReg r y ∨ i = .andReg r y ∨ i = .xorReg r y ∨ i = .addReg r y ∨
      i = .subReg r y ∨ i = .shr r y ∨ i = .subn r y ∨ i = .shl r y) ∨
    i = .ldVxDt r ∨ i = .ldVxK r ∨ (∃ x : Reg, i = .ldVxMem x ∧ r.val ≤ x.val) ∨
    (r = vf ∧ ((∃ x y, i = .addReg x y ∨ i = .subReg x y ∨ i = .shr x y ∨ i = .subn x y ∨ i = .shl x y) ∨
      (∃ x, i = .addIVx x) ∨ ∃ x y n, i = .drw x y n)) := by
  cases i with
  | addReg | subReg | shr | subn | shl =>
    simp only [regsWritten, List.mem_cons, List.not_mem_nil, or_false] at h
    rcases h with rfl | rfl <;> simp
  | _ =>
    simp [regsWritten] at h <;> simp [h]

theorem writer_of_index {i : Instr} (h : Part.index ∈ partsWritten i) :
    (∃ a, i = .ldI a) ∨ (∃ x, i = .addIVx x) ∨ (∃ x, i = .ldFVx x) ∨ (∃ x, i = .ldMemVx x) ∨
      (∃ x, i = .ldVxMem x) := by
  cases i <;> simp [partsWritten] at h ⊢

theorem writer_of_stack {i : Instr} (h : Part.stack ∈ partsWritten i) : ∃ a, i = .call a := by
  cases i <;> simp [partsWritten] at h ⊢

theorem writer_of_sp {i : Instr} (h : Part.sp ∈ partsWritten i) : (∃ a, i = .call a) ∨ i = .ret := by
  cases i <;> simp [partsWritten] at h ⊢

theorem writer_of_delay {i : Instr} (h : Part.delay ∈ partsWritten i) : ∃ x, i = .ldDtVx x := by
  cases i <;> simp [partsWritten] at h ⊢

theorem writer_of_sound {i : Instr} (h : Part.sound ∈ partsWritten i) : ∃ x, i = .ldStVx x := by
  cases i <;> simp [partsWritten] at h ⊢

theorem writer_of_frame {i : Instr} (h : Part.pixels ∈ partsWritten i ∨ Part.dirty ∈ partsWritten i) :
    i = .cls ∨ ∃ x y n, i = .drw x y n := by
  cases i <;> simp [partsWritten] at h ⊢

theorem writer_of_memory {i : Instr} (h : Part.memory ∈ partsWritten i) :
    (∃ x, i = .ldBVx x) ∨ ∃ x, i = .ldMemVx x := by
  cases i <;> simp [partsWritten] at h ⊢

theorem writer_of_draws {i : Instr} (h : Part.draws ∈ partsWritten i) : ∃ x nn, i = .rnd x nn := by
  cases i <;> simp [partsWritten] at h ⊢

/-- `beep`, the latches and the count of keys drawn are written by no instruction of this hardware (D6, D7). -/
theorem not_mem_partsWritten (i : Instr) :
    Part.beep ∉ partsWritten i ∧ Part.keys ∉ partsWritten i ∧ Part.keyDraws ∉ partsWritten i := by
  cases i <;> simp [partsWritten]

/-- An instruction that writes the frame raises `dirty` with it (R41). -/
theorem dirty_of_writer {i : Instr} {s t : State} (h : exec i s = .next t)
    (hi : i = .cls ∨ ∃ x y n, i = .drw x y n) : t.dirty = true := by
  rcases hi with rfl | ⟨x, y, n, rfl⟩
  · cases h; rfl
  · obtain ⟨-, d, -, rfl⟩ := exec_drw_next h; rfl

/-- Settles O48: what changes is written, and the tables of what is written name the writers. -/
theorem writersOfEachPart : Obligations.WritersOfEachPart := by
  intro i s t h
  have written {p : Part} := mem_partsWritten_of_not_same (p := p) h
  obtain ⟨hbeep, hkeys, hkeyDraws⟩ := not_mem_partsWritten i
  have frame (hp : i = .cls ∨ ∃ x y n, i = .drw x y n) := And.intro hp (dirty_of_writer h hp)
  exact ⟨fun r hr => writer_of_mem_regsWritten (mem_regsWritten_of_ne h hr),
    fun hp => writer_of_index (written hp), fun hp => writer_of_stack (written hp),
    fun hp => writer_of_sp (written hp), fun hp => writer_of_delay (written hp),
    fun hp => writer_of_sound (written hp), (unchangedBut_of_exec h).2 .beep hbeep,
    fun hp => frame (writer_of_frame (.inl (written hp))), fun hp => frame (writer_of_frame (.inr (written hp))),
    dirty_of_writer h, (unchangedBut_of_exec h).2 .keys hkeys, fun hp => writer_of_memory (written hp),
    fun hp => writer_of_draws (written hp), (unchangedBut_of_exec h).2 .keyDraws hkeyDraws⟩

/-! ### Memory -/

/-- An instruction leaves memory, or stores bytes above the font and inside memory. -/
theorem exec_mem_cases {i : Instr} {s t : State} (h : exec i s = .next t) : t.mem = s.mem ∨
    ∃ bytes : List Byte, 0x050 ≤ s.I.toNat ∧ s.I.toNat + bytes.length ≤ memSize ∧
      t.mem = s.mem.writeBytes s.I.toNat bytes := by
  cases i with
  | ldBVx x =>
    obtain ⟨hfont, hr, rfl⟩ := exec_ldBVx_next h
    exact .inr ⟨_, hfont, by rw [length_bcdDigits]; exact hr, rfl⟩
  | ldMemVx x =>
    obtain ⟨hfont, hr, rfl⟩ := exec_ldMemVx_next h
    exact .inr ⟨_, hfont, by rw [length_regsUpTo]; exact hr, rfl⟩
  | ret => obtain ⟨k, p, -, -, rfl⟩ := exec_ret_next h; exact .inl rfl
  | call a => obtain ⟨_, p, -, rfl⟩ := exec_call_next h; exact .inl rfl
  | drw => obtain ⟨-, d, -, rfl⟩ := exec_drw_next h; exact .inl rfl
  | skp => obtain ⟨k, -, rfl⟩ := exec_skp_next h; exact .inl rfl
  | sknp => obtain ⟨k, -, rfl⟩ := exec_sknp_next h; exact .inl rfl
  | ldVxMem => obtain ⟨-, rfl⟩ := exec_ldVxMem_next h; exact .inl (by simp)
  | ldVxK =>
    rcases exec_ldVxK_next h with ⟨-, rfl⟩ | ⟨k, ks, -, rfl⟩
    · exact .inl rfl
    · exact .inl rfl
  | _ => cases h; exact .inl rfl

/-- Settles O47: a store that completes begins above the font. -/
theorem noInstructionWritesTheFont : Obligations.NoInstructionWritesTheFont := by
  intro i s t a h ha
  rcases exec_mem_cases h with hmem | ⟨bytes, hfont, -, hmem⟩
  · rw [hmem]
  · rw [hmem, Memory.read_writeBytes_outside _ (by omega)]

/-! ### pc -/

/-- An instruction that is no jump, call, return, skip or wait completes at pc + 2 (R26). -/
theorem pc_of_exec_straight {i : Instr} {s t : State} (h : exec i s = .next t)
    (hjump : ∀ a, i ≠ .jp a ∧ i ≠ .call a ∧ i ≠ .jpV0 a) (hret : i ≠ .ret)
    (himm : ∀ x nn, i ≠ .seImm x nn ∧ i ≠ .sneImm x nn) (hreg : ∀ x y, i ≠ .seReg x y ∧ i ≠ .sneReg x y)
    (hkey : ∀ x, i ≠ .skp x ∧ i ≠ .sknp x ∧ i ≠ .ldVxK x) : t.pc = s.pc + 2 := by
  cases i with
  | jp a => exact absurd rfl (hjump a).1
  | call a => exact absurd rfl (hjump a).2.1
  | jpV0 a => exact absurd rfl (hjump a).2.2
  | ret => exact absurd rfl hret
  | seImm x nn => exact absurd rfl (himm x nn).1
  | sneImm x nn => exact absurd rfl (himm x nn).2
  | seReg x y => exact absurd rfl (hreg x y).1
  | sneReg x y => exact absurd rfl (hreg x y).2
  | skp x => exact absurd rfl (hkey x).1
  | sknp x => exact absurd rfl (hkey x).2.1
  | ldVxK x => exact absurd rfl (hkey x).2.2
  | drw => obtain ⟨-, d, -, rfl⟩ := exec_drw_next h; rfl
  | ldBVx => obtain ⟨-, -, rfl⟩ := exec_ldBVx_next h; rfl
  | ldMemVx => obtain ⟨-, -, rfl⟩ := exec_ldMemVx_next h; rfl
  | ldVxMem => obtain ⟨-, rfl⟩ := exec_ldVxMem_next h; simp
  | _ => cases h; rfl

/-- Settles O49: each clause is the pc of one form of next state. -/
theorem pcAfterAnInstruction : Obligations.PcAfterAnInstruction := by
  intro i s t h
  refine ⟨?jump, ?jumpV0, ?ret, fun x nn => ⟨?seImm, ?sneImm⟩, fun x y => ⟨?seReg, ?sneReg⟩, fun x => ⟨?skp, ?sknp⟩,
    ?noKey, ?key, pc_of_exec_straight h⟩
  case jump =>
    rintro a (rfl | rfl)
    · cases h; exact toNat_addrOperand a
    · obtain ⟨_, p, -, rfl⟩ := exec_call_next h; exact toNat_addrOperand a
  case jumpV0 => rintro a rfl; cases h; exact toNat_addrPlusV0 a s
  case ret => rintro rfl; obtain ⟨k, p, hk, -, rfl⟩ := exec_ret_next h; exact ⟨k, hk, rfl⟩
  case seImm => rintro rfl; cases h; exact (skipIf_pc_ite s _).trans (by simp only [beq_iff_eq])
  case sneImm => rintro rfl; cases h; exact (skipIf_not_pc_ite s (s.reg x == nn)).trans (by simp only [beq_iff_eq])
  case seReg => rintro rfl; cases h; exact (skipIf_pc_ite s _).trans (by simp only [beq_iff_eq])
  case sneReg => rintro rfl; cases h; exact (skipIf_not_pc_ite s (s.reg x == s.reg y)).trans (by simp only [beq_iff_eq])
  case skp => rintro rfl; obtain ⟨k, hk, rfl⟩ := exec_skp_next h; exact ⟨k, hk.symm, skipIf_pc_ite s _⟩
  case sknp => rintro rfl; obtain ⟨k, hk, rfl⟩ := exec_sknp_next h; exact ⟨k, hk.symm, skipIf_not_pc_ite s _⟩
  case noKey =>
    rintro x rfl hnone
    rcases exec_ldVxK_next h with ⟨-, ht⟩ | ⟨k, ks, hkeys, -⟩
    · exact ht
    · rw [(pressedKeys_eq_nil s).mpr hnone] at hkeys
      cases hkeys
  case key =>
    rintro x rfl ⟨k, hk⟩
    rcases exec_ldVxK_next h with ⟨hnone, -⟩ | ⟨_, _, -, rfl⟩
    · rw [(pressedKeys_eq_nil s).mp hnone k] at hk
      cases hk
    · rfl

/-! ### Faults -/

theorem guardRange_fault {start len : Nat} {body : Outcome} {f : Fault} (h : guardRange start len body = .fault f) :
    (f = .outOfBounds (max start 4096) ∧ 4096 < start + len) ∨ body = .fault f := by
  rcases guardRange_cases start len body with ⟨-, e⟩ | ⟨hr, e⟩ <;> rw [e] at h
  · exact .inr h
  · cases h; exact .inl ⟨rfl, hr.2⟩

theorem guardFont_fault {c : Config} {start : Nat} {body : Outcome} {f : Fault}
    (h : guardFont c start body = .fault f) : (f = .fontWrite start ∧ start < 0x050) ∨ body = .fault f := by
  rcases guardFont_cases c start body with ⟨-, e⟩ | ⟨hf, e⟩ <;> rw [e] at h
  · exact .inr h
  · cases h; exact .inl ⟨rfl, hf.2⟩

/-- A guarded store faults on its range or on the font. -/
theorem guardedStore_fault {c : Config} {start len : Nat} {t : State} {f : Fault}
    (h : guardRange start len (guardFont c start (.next t)) = .fault f) :
    (f = .outOfBounds (max start 4096) ∧ 4096 < start + len) ∨ (f = .fontWrite start ∧ start < 0x050) := by
  rcases guardRange_fault h with hr | h
  · exact .inl hr
  · rcases guardFont_fault h with hf | h
    · exact .inr hf
    · cases h

theorem withKey_next_fault {v : Byte} {t : KeyIndex → State} {f : Fault}
    (h : withKey v (fun k => .next (t k)) = .fault f) : f = .keyOutOfBounds v ∧ 15 < v.toNat := by
  rcases withKey_cases v fun k => .next (t k) with ⟨k, -, e⟩ | ⟨hv, e⟩ <;> rw [e] at h <;> cases h
  exact ⟨rfl, hv⟩

theorem push_next_fault {s : State} {v : Word} {t : State → State} {f : Fault}
    (h : push s v (fun u => .next (t u)) = .fault f) : f = .stackOverflow s.pc ∧ s.sp.val = 16 := by
  rcases push_cases s v fun u => .next (t u) with ⟨_, _, -, e⟩ | ⟨hsp, e⟩ <;> rw [e] at h <;> cases h
  exact ⟨rfl, hsp⟩

theorem pop_next_fault {s : State} {t : Word → State → State} {f : Fault}
    (h : pop s (fun v u => .next (t v u)) = .fault f) : f = .stackUnderflow s.pc ∧ s.sp.val = 0 := by
  rcases pop_cases s fun v u => .next (t v u) with ⟨_, _, -, -, e⟩ | ⟨hsp, e⟩ <;> rw [e] at h <;> cases h
  exact ⟨rfl, hsp⟩

/-- Settles O50: only the guarded instructions fault, each on its guard. -/
theorem faultsAreRaisedOnlyWhereListed : Obligations.FaultsAreRaisedOnlyWhereListed := by
  intro i s f h
  cases i with
  | drw x y n =>
    rcases guardRange_fault h with ⟨hf, hr⟩ | h
    · exact .inl ⟨_, hf, hr, .inl ⟨x, y, n, rfl, rfl⟩⟩
    · cases h
  | ldVxMem x =>
    rcases guardRange_fault h with ⟨hf, hr⟩ | h
    · exact .inl ⟨_, hf, hr, .inr (.inr ⟨x, .inr rfl, rfl⟩)⟩
    · cases h
  | ldBVx x =>
    rcases guardedStore_fault (c := Config.hardware) h with ⟨hf, hr⟩ | ⟨hf, hlt⟩
    · exact .inl ⟨_, hf, hr, .inr (.inl ⟨x, rfl, rfl⟩)⟩
    · exact .inr (.inr (.inr (.inr ⟨hf, hlt, x, .inl rfl⟩)))
  | ldMemVx x =>
    rcases guardedStore_fault (c := Config.hardware) h with ⟨hf, hr⟩ | ⟨hf, hlt⟩
    · exact .inl ⟨_, hf, hr, .inr (.inr ⟨x, .inl rfl, rfl⟩)⟩
    · exact .inr (.inr (.inr (.inr ⟨hf, hlt, x, .inr rfl⟩)))
  | call a =>
    rw [exec, execCall] at h
    obtain ⟨hf, hsp⟩ := push_next_fault h
    exact .inr (.inl ⟨hf, hsp, a, rfl⟩)
  | ret =>
    rw [exec, execRet] at h
    obtain ⟨hf, hsp⟩ := pop_next_fault h
    exact .inr (.inr (.inl ⟨hf, hsp, rfl⟩))
  | skp x =>
    rw [exec, execSkp] at h
    obtain ⟨hf, hv⟩ := withKey_next_fault h
    exact .inr (.inr (.inr (.inl ⟨x, hf, hv, .inl rfl⟩)))
  | sknp x =>
    rw [exec, execSknp] at h
    obtain ⟨hf, hv⟩ := withKey_next_fault h
    exact .inr (.inr (.inr (.inl ⟨x, hf, hv, .inr rfl⟩)))
  | ldVxK x =>
    rw [exec, execLdVxK, execLdVxKWith] at h
    split at h <;> cases h
  | _ => cases h

end Sys2Proof.Machine

/-! The host's `load`, `press` and `release` (`20_memory.md` R79, R80; `60_exceptions.md` R279, R284) and the state
after reset (`10_state.md` R46). -/

namespace Sys2Proof.Machine

open Sys2Proof

/-! ### `load`, `press` and `release` -/

theorem load_of_le {rom : List Byte} (s : State) (h : rom.length ≤ 3584) :
    load rom s = .ok (s.setMem (s.mem.writeBytes 0x200 rom)) := if_pos h

theorem load_of_lt {rom : List Byte} (s : State) (h : 3584 < rom.length) :
    load rom s = .error (.programTooLarge rom.length) := if_neg (not_le_of_gt h)

theorem unchangedBut_setMem (s : State) (m : Memory) : unchangedBut [] [.memory] s (s.setMem m) := by
  refine ⟨fun r _ => rfl, fun p hp => ?_⟩
  cases p with
  | memory => simp at hp
  | _ => rfl

/-- Settles O58: `load` is one write of bytes from 0x200 on, or the failure of its length check. -/
theorem loadCopiesTheProgram : Obligations.LoadCopiesTheProgram := by
  refine fun c rom s => ⟨fun h => ?_, fun h => by rw [hostOp, load_of_lt s h, replyOf]⟩
  refine ⟨s.setMem (s.mem.writeBytes 0x200 rom), by rw [hostOp, load_of_le s h, replyOf], fun i hi => ?_,
    sameMemoryOutside_of_writeBytes rfl rfl, rfl, unchangedBut_setMem s _⟩
  exact Memory.read_writeBytes_inside s.mem 0x200 hi

theorem unchangedBut_setKey (s : State) (k : KeyIndex) (down : Bool) : unchangedBut [] [.keys] s (s.setKey k down) := by
  refine ⟨fun r _ => rfl, fun p hp => ?_⟩
  cases p with
  | keys => simp at hp
  | memory => exact fun _ => rfl
  | _ => rfl

/-- `press` and `release` are one write of a latch. -/
theorem hostOp_writeLatch (c : Config) (s : State) (k : Nat) (down : Bool) :
    hostOp c (if down then .press k else .release k) s = replyOf s (writeLatch k down s) := by
  cases down <;> rfl

theorem writeLatch_of_lt {k : Nat} (down : Bool) (s : State) (h : k < 16) :
    writeLatch k down s = .ok (s.setKey ⟨k, h⟩ down) := dif_pos h

theorem writeLatch_of_le {k : Nat} (down : Bool) (s : State) (h : 16 ≤ k) :
    writeLatch k down s = .error (.keyIndexOutOfRange k) := dif_neg (not_lt_of_ge h)

/-- Settles O59: the latch of an index is written, or there is none. -/
theorem pressAndReleaseWriteOneLatch : Obligations.PressAndReleaseWriteOneLatch := by
  intro c s k down op
  have hop : hostOp c op s = replyOf s (writeLatch k down s) := hostOp_writeLatch c s k down
  refine ⟨fun h => ?_, fun h => by rw [hop, writeLatch_of_le down s h, replyOf]⟩
  refine ⟨s.setKey ⟨k, h⟩ down, by rw [hop, writeLatch_of_lt down s h, replyOf], fun j => ?_, rfl,
    unchangedBut_setKey s _ down⟩
  simp only [State.setKey_key, Vector.getElem_set, eq_comm]

/-! ### Reset -/

theorem reset_mem_read (a : Nat) : State.reset.mem.read a = standardFont.getD a 0 := rfl

theorem length_standardFont : standardFont.length = 0x050 := rfl

theorem hostOp_reset_hardware (powerUp s : State) : hostOp Config.hardware (.reset powerUp) s =
    ({ State.reset with draws := s.draws, keyDraws := s.keyDraws }, .ok) := by
  rw [hostOp, hostReset, resetFrom_hardware]

/-- Settles O42: reset memory lists nothing and reads as the standard font, which the table writes out. -/
theorem resetValues : Obligations.ResetValues := by
  unfold Obligations.ResetValues
  intro s font
  have hfont : font = standardFont := rfl
  refine ⟨rfl, rfl, fun a ha => ?_, fun a ha => ?_, fun r => ?_, rfl, rfl, fun k => ?_, rfl, rfl, rfl,
    fun p => BitVec.getLsbD_zero, rfl, fun k => ?_, resetFrom_hardware, hostOp_reset_hardware⟩
  · rw [reset_mem_read, ← hfont, List.getD_eq_getElem _ _ ha]
  · rw [reset_mem_read, List.getD_eq_default _ _ (by rw [length_standardFont]; exact ha)]
  · exact Vector.getElem_replicate r.isLt
  · exact Vector.getElem_replicate k.isLt
  · exact Vector.getElem_replicate k.isLt

/-- Settles O43: reset writes pc and the font's 80 bytes over the power-up state. -/
theorem unspecifiedResetSetsOnlyPcAndFont : Obligations.UnspecifiedResetSetsOnlyPcAndFont := by
  intro c s hpolicy hwf
  have hlen : c.font.length = 80 := beq_iff_eq.mp hwf
  have hreset : resetFrom c s = (s.setPc 0x200).setMem (s.mem.writeBytes 0 c.font) := by
    rw [resetFrom, hpolicy]
    rfl
  refine ⟨_, hreset, rfl, fun a ha => ?_, sameMemoryOutside_of_writeBytes rfl hlen,
    (unchangedBut_setPc s 0x200).trans (unchangedBut_setMem _ _)⟩
  have ha : a < c.font.length := hlen ▸ ha
  have hread := Memory.read_writeBytes_inside s.mem 0 ha
  rw [Nat.zero_add] at hread
  rw [State.setMem_mem, hread, List.getD_eq_getElem _ _ ha]

end Sys2Proof.Machine

/-! The invariant: it holds at reset, and every step and every operation of the host keeps it (`10_state.md` R28, R34;
`20_memory.md` R71). -/

namespace Sys2Proof.Machine

open Sys2Proof

/-- Settles O44: reset memory lists nothing, and pc and the stack entries are constants. -/
theorem invariantHoldsAtReset : Obligations.InvariantHoldsAtReset where
  memWf := Memory.wf_nil
  font := fun a _ => reset_mem_read a
  bounded := ⟨by decide, fun k => by
    have hzero : State.reset.stack[k.val] = 0 := Vector.getElem_replicate k.isLt
    rw [hzero]
    decide⟩

/-! ### Steps -/

/-- Where an instruction can leave pc: on a target of at most 0x10FE, where it was, 2 or 4 further, or 2 past a stack
entry (R26). -/
theorem exec_pc_cases {i : Instr} {s t : State} (h : exec i s = .next t) :
    t.pc.toNat ≤ 0x10FE ∨ t.pc = s.pc ∨ t.pc = s.pc + 2 ∨ t.pc = s.pc + 4 ∨ ∃ k : Fin 16, t.pc = s.stack[k.val] + 2 := by
  have skip (b : Bool) (ht : t = s.skipIf b) :
      t.pc = s.pc + 2 ∨ t.pc = s.pc + 4 ∨ ∃ k : Fin 16, t.pc = s.stack[k.val] + 2 := by
    subst ht
    cases b
    · exact .inl rfl
    · exact .inr (.inl rfl)
  obtain ⟨hjump, hjumpV0, hret, -, -, -, hnoKey, hkey, hrest⟩ := pcAfterAnInstruction i s t h
  cases i with
  | jp a =>
    have := addr12_lt a
    exact .inl (by rw [hjump a (.inl rfl)]; omega)
  | call a =>
    have := addr12_lt a
    exact .inl (by rw [hjump a (.inr rfl)]; omega)
  | jpV0 a =>
    have := addr12_lt a
    have := byte_lt (s.reg 0)
    exact .inl (by rw [hjumpV0 a rfl]; omega)
  | ret =>
    obtain ⟨k, -, hpc⟩ := hret rfl
    exact .inr (.inr (.inr (.inr ⟨k, hpc⟩)))
  | seImm | sneImm | seReg | sneReg => cases h; exact .inr (.inr (skip _ rfl))
  | skp => obtain ⟨k, -, ht⟩ := exec_skp_next h; exact .inr (.inr (skip _ ht))
  | sknp => obtain ⟨k, -, ht⟩ := exec_sknp_next h; exact .inr (.inr (skip _ ht))
  | ldVxK x =>
    by_cases hany : ∃ k : KeyIndex, s.key[k.val] = true
    · exact .inr (.inr (.inl (hkey x rfl hany)))
    · exact .inr (.inl (by rw [hnoKey x rfl (by simpa using hany)]))
  | _ => exact .inr (.inr (.inl (hrest (by simp) (by simp) (by simp) (by simp) (by simp))))

/-- A step at an address an instruction can stand at leaves pc at most 0x10FE (R28). -/
theorem exec_pc_le {i : Instr} {s t : State} (h : exec i s = .next t) (hpc : s.pc.toNat ≤ 0xFFE)
    (hstack : ∀ k : Fin 16, s.stack[k.val].toNat ≤ 0xFFE) : t.pc.toNat ≤ 0x10FE := by
  have near (a : Word) (ha : a.toNat ≤ 0xFFE) : (a + 2).toNat ≤ 0x10FE ∧ (a + 4).toNat ≤ 0x10FE := by
    constructor <;> bv_omega
  rcases exec_pc_cases h with hle | hsame | hnext | hskip | ⟨k, hret⟩
  · exact hle
  · rw [hsame]
    omega
  · exact hnext ▸ (near _ hpc).1
  · exact hskip ▸ (near _ hpc).2
  · exact hret ▸ (near _ (hstack k)).1

/-- Only a call writes a stack entry, and what it writes is its own address (R34). -/
theorem exec_stack_le {i : Instr} {s t : State} (h : exec i s = .next t) (hpc : s.pc.toNat ≤ 0xFFE)
    (hstack : ∀ k : Fin 16, s.stack[k.val].toNat ≤ 0xFFE) (k : Fin 16) : t.stack[k.val].toNat ≤ 0xFFE := by
  by_cases hw : Part.stack ∈ partsWritten i
  · obtain ⟨a, rfl⟩ := writer_of_stack hw
    obtain ⟨_, p, -, rfl⟩ := exec_call_next h
    rw [State.setPc_stack, Vector.getElem_set]
    split
    · exact hpc
    · exact hstack k
  · have hsame : t.stack = s.stack := (unchangedBut_of_exec h).2 .stack hw
    rw [hsame]
    exact hstack k

theorem exec_keeps_wf {i : Instr} {s t : State} (h : exec i s = .next t) (hs : s.mem.wf = true) : t.mem.wf = true := by
  rcases exec_mem_cases h with hmem | ⟨bytes, -, hr, hmem⟩
  · rwa [hmem]
  · rw [hmem]
    exact Memory.wf_writeBytes hr hs

theorem exec_keeps_inv {i : Instr} {s t : State} (h : exec i s = .next t) (hpc : s.pc.toNat ≤ 0xFFE) (hs : s.Inv) :
    t.Inv where
  memWf := exec_keeps_wf h hs.memWf
  font := fun a ha => (noInstructionWritesTheFont i s t a h ha).trans (hs.font a ha)
  bounded := ⟨exec_pc_le h hpc hs.bounded.2, exec_stack_le h hpc hs.bounded.2⟩

/-- Settles O45: a step that answers a next state ran an instruction, fetched at 0xFFE or below. -/
theorem stepKeepsTheInvariant : Obligations.StepKeepsTheInvariant := by
  intro s t hs h
  rcases stepVia_cases Config.hardware exec s with ⟨-, e⟩ | ⟨hpc, w, -, ⟨-, e⟩ | ⟨i, -, e⟩⟩
  · cases h.symm.trans e
  · cases h.symm.trans e
  · exact exec_keeps_inv (e.symm.trans h) (by omega) hs

/-! ### Operations of the host -/

/-- The invariant is of memory, pc and the stack alone. -/
theorem inv_of_same {s t : State} (hs : s.Inv) (hmem : t.mem = s.mem) (hpc : t.pc = s.pc)
    (hstack : t.stack = s.stack) : t.Inv where
  memWf := hmem ▸ hs.memWf
  font := fun a ha => hmem ▸ hs.font a ha
  bounded := by
    rw [State.pcBounded, hpc, hstack]
    exact hs.bounded

theorem load_keeps_inv {rom : List Byte} {s t : State} (h : load rom s = .ok t) (hs : s.Inv) : t.Inv := by
  by_cases hlen : rom.length ≤ 3584
  · cases h.symm.trans (load_of_le s hlen)
    refine ⟨Memory.wf_writeBytes (by simp only [memSize]; omega) hs.memWf, fun a ha => ?_, hs.bounded⟩
    have ha : a < 0x050 := ha
    rw [State.setMem_mem, Memory.read_writeBytes_outside _ (by omega), hs.font a ha]
  · cases h.symm.trans (load_of_lt s (by omega))

theorem writeLatch_keeps_inv {k : Nat} {down : Bool} {s t : State} (h : writeLatch k down s = .ok t) (hs : s.Inv) :
    t.Inv := by
  by_cases hk : k < 16
  · cases h.symm.trans (writeLatch_of_lt down s hk)
    exact inv_of_same hs rfl rfl rfl
  · cases h.symm.trans (writeLatch_of_le down s (by omega))

/-- An operation that may fail keeps what it keeps when it succeeds: a failure changes nothing (R263). -/
theorem replyOf_fst_of {P : State → Prop} {s : State} {r : Except Fault State} (hs : P s)
    (hr : ∀ t, r = .ok t → P t) : P (replyOf s r).1 := by
  cases r with
  | ok t => exact hr t rfl
  | error f => exact hs

/-- After a step the core is where it was, or in the step's next state. -/
theorem stateAfter_stepReport (c : Config) (s : State) :
    (stepReport c s).stateAfter s = s ∨ stepWith c s = .next ((stepReport c s).stateAfter s) := by
  unfold stepReport
  split
  · exact .inl rfl
  · cases h : stepWith c s with
    | next t => exact .inr rfl
    | fault f => exact .inl rfl
    | refused r => exact .inl rfl

theorem hostOp_keeps_inv (op : HostOp) {s : State} (hs : s.Inv) : (hostOp Config.hardware op s).1.Inv := by
  cases op with
  | load rom => exact replyOf_fst_of hs fun t h => load_keeps_inv h hs
  | press k => exact replyOf_fst_of hs fun t h => writeLatch_keeps_inv h hs
  | release k => exact replyOf_fst_of hs fun t h => writeLatch_keeps_inv h hs
  | step =>
    show ((stepReport Config.hardware s).stateAfter s).Inv
    rcases stateAfter_stepReport Config.hardware s with hsame | hnext
    · rwa [hsame]
    · exact stepKeepsTheInvariant s _ hs ((stepWith_hardware s).symm.trans hnext)
  | tickTimers | clearDirty => exact inv_of_same hs rfl rfl rfl
  | beepPending | readFramebuffer => exact hs
  | reset powerUp =>
    rw [hostOp_reset_hardware]
    exact inv_of_same invariantHoldsAtReset rfl rfl rfl

/-- What every operation of a sequence keeps of the core holds after the whole sequence. -/
theorem applyAll_core_of {c : Config} {P : State → Prop} {ops : List HostOp}
    (hop : ∀ op ∈ ops, ∀ s, P s → P (hostOp c op s).1) {r : Run} (hr : P r.core) : P (Run.applyAll c ops r).core := by
  induction ops generalizing r with
  | nil => exact hr
  | cons op ops ih =>
    exact ih (fun o ho => hop o (List.mem_cons_of_mem _ ho)) (hop op List.mem_cons_self r.core hr)

/-- Settles O46: each operation keeps the invariant, and so does every sequence of them from reset. -/
theorem everyReachableStateHasTheInvariant : Obligations.EveryReachableStateHasTheInvariant :=
  ⟨fun op _ hs => hostOp_keeps_inv op hs,
    fun _ => applyAll_core_of (fun op _ _ hs => hostOp_keeps_inv op hs) invariantHoldsAtReset⟩

end Sys2Proof.Machine

/-! Two steps that end alike: what a program cannot observe (`10_state.md` R35, R48), and why a fault repeats
(`60_exceptions.md` R263, R264). -/

namespace Sys2Proof.Machine

open Sys2Proof

/-! ### Shared operations that end alike -/

section

variable {R : State → State → Prop}

theorem endAlike_guardRange {a a' : Nat} {o o' : Outcome} (n : Nat) (ha : a' = a) (h : endAlike R o o') :
    endAlike R (guardRange a n o) (guardRange a' n o') := by
  subst ha
  unfold guardRange
  split
  · exact h
  · exact rfl

theorem endAlike_guardFont {a a' : Nat} {o o' : Outcome} (c : Config) (ha : a' = a) (h : endAlike R o o') :
    endAlike R (guardFont c a o) (guardFont c a' o') := by
  subst ha
  unfold guardFont
  split
  · exact rfl
  · exact h

theorem endAlike_withKey {v v' : Byte} {t t' : KeyIndex → State} (hv : v' = v) (h : ∀ k, R (t k) (t' k)) :
    endAlike R (withKey v fun k => .next (t k)) (withKey v' fun k => .next (t' k)) := by
  subst hv
  unfold withKey
  split
  · exact h _
  · exact rfl

theorem endAlike_push {s s' : State} {v v' : Word} {t t' : State → State} (hsp : s'.sp = s.sp) (hpc : s'.pc = s.pc)
    (h : ∀ (hlt : s.sp.val < 16) (p : Fin 17), p.val = s.sp.val + 1 →
      R (t { s with stack := s.stack.set s.sp.val v, sp := p }) (t' { s' with stack := s'.stack.set s.sp.val v', sp := p })) :
    endAlike R (push s v fun u => .next (t u)) (push s' v' fun u => .next (t' u)) := by
  by_cases hlt : s.sp.val < 16
  · rw [push, push, dif_pos hlt, dif_pos (hsp ▸ hlt)]
    simp only [hsp]
    exact h hlt ⟨s.sp.val + 1, by omega⟩ rfl
  · rw [push, push, dif_neg hlt, dif_neg (hsp ▸ hlt)]
    exact congrArg Fault.stackOverflow hpc.symm

theorem endAlike_pop {s s' : State} {t t' : Word → State → State} (hsp : s'.sp = s.sp) (hpc : s'.pc = s.pc)
    (h : ∀ (k : Fin 16) (p : Fin 17), s.sp.val = k.val + 1 → p.val = k.val →
      R (t s.stack[k.val] { s with sp := p }) (t' s'.stack[k.val] { s' with sp := p })) :
    endAlike R (pop s fun v u => .next (t v u)) (pop s' fun v u => .next (t' v u)) := by
  by_cases hlt : 0 < s.sp.val
  · rw [pop, pop, dif_pos hlt, dif_pos (hsp ▸ hlt)]
    simp only [hsp]
    exact h ⟨s.sp.val - 1, by omega⟩ ⟨s.sp.val - 1, by omega⟩ (by simp only; omega) rfl
  · rw [pop, pop, dif_neg hlt, dif_neg (hsp ▸ hlt)]
    exact congrArg Fault.stackUnderflow hpc.symm

/-- With the same keys pressed FX0A waits in both states or takes the same key in both. -/
theorem endAlike_ldVxK {s t : State} {x : Reg} (hkeys : t.pressedKeys = s.pressedKeys) (hwait : R s t)
    (htake : ∀ v, R (s.setReg x v).done (t.setReg x v).done) : endAlike R (exec (.ldVxK x) s) (exec (.ldVxK x) t) := by
  simp only [exec, execLdVxK, execLdVxKWith, hkeys]
  split
  · exact hwait
  · exact htake _

/-- Two steps fetch the same word from the same memory and pc, and so end alike where its instruction does. -/
theorem endAlike_stepVia {c : Config} {run : Instr → State → Outcome} {s t : State} (hmem : t.mem = s.mem)
    (hpc : t.pc = s.pc) (hskip : R s.done t.done) (hrun : ∀ i, endAlike R (run i s) (run i t)) :
    endAlike R (stepVia c run s) (stepVia c run t) := by
  have hfetch : fetchWord t = fetchWord s := by rw [fetchWord, hmem, hpc, ← fetchWord]
  simp only [stepVia, hfetch]
  split
  · exact rfl
  · split
    · unfold unknownWord
      split
      · exact congrArg (Fault.unknownOpcode _) hpc.symm
      · exact hskip
    · exact hrun _

end

/-! ### ST, `beep` and `dirty` -/

theorem endAlike_exec_hostOnly (i : Instr) (s : State) (ST : Byte) (beep dirty : Bool) :
    endAlike sameToTheProgram (exec i s) (exec i { s with ST := ST, beep := beep, dirty := dirty }) := by
  cases i with
  | drw => exact endAlike_guardRange _ rfl rfl
  | ldVxMem x =>
    refine endAlike_guardRange _ rfl ?_
    simp only [endAlike, sameToTheProgram, State.done, State.advance, State.setPc, State.bumpI, State.setI,
      State.loadRegs, State.reg, State.ea]
  | ldBVx | ldMemVx => exact endAlike_guardRange _ rfl (endAlike_guardFont _ rfl rfl)
  | skp | sknp => simp only [exec, execSkp, execSknp]; exact endAlike_withKey rfl fun _ => rfl
  | call => simp only [exec, execCall]; exact endAlike_push rfl rfl fun _ _ _ => rfl
  | ret => simp only [exec, execRet]; exact endAlike_pop rfl rfl fun _ _ _ _ => rfl
  | ldVxK x => exact endAlike_ldVxK rfl rfl fun _ => rfl
  | _ => exact rfl

/-- Settles O53: no instruction reads the three, and the fetch does not either. -/
theorem programCannotSeeHostOnlyState : Obligations.ProgramCannotSeeHostOnlyState := by
  intro s t h
  rw [h]
  exact endAlike_stepVia rfl rfl rfl fun i => endAlike_exec_hostOnly i s _ _ _

/-! ### The stack entries not in use -/

theorem endAlike_exec_unusedStack (i : Instr) (s : State) {stack : Vector Word 16}
    (h : ∀ k : Fin 16, k.val < s.sp.val → stack[k.val] = s.stack[k.val]) :
    endAlike sameBelowSp (exec i s) (exec i { s with stack := stack }) := by
  cases i with
  | drw => exact endAlike_guardRange _ rfl ⟨rfl, h⟩
  | ldVxMem x =>
    refine endAlike_guardRange _ rfl ?_
    simp only [endAlike, sameBelowSp, State.done, State.advance, State.setPc, State.bumpI, State.setI, State.loadRegs,
      State.reg, State.ea, true_and]
    exact h
  | ldBVx | ldMemVx => exact endAlike_guardRange _ rfl (endAlike_guardFont _ rfl ⟨rfl, h⟩)
  | skp | sknp => simp only [exec, execSkp, execSknp]; exact endAlike_withKey rfl fun _ => ⟨rfl, h⟩
  | call =>
    simp only [exec, execCall]
    refine endAlike_push rfl rfl fun hlt p hp => ⟨rfl, fun k hk => ?_⟩
    have hk : k.val < p.val := hk
    simp only [State.setPc_stack, Vector.getElem_set]
    split
    · rfl
    · exact h k (by omega)
  | ret =>
    simp only [exec, execRet]
    refine endAlike_pop rfl rfl fun k p hk hp => ⟨?_, fun j hj => h j ?_⟩
    · simp only [h k (by omega), State.setPc]
    · have hj : j.val < p.val := hj
      omega
  | ldVxK x => exact endAlike_ldVxK rfl ⟨rfl, h⟩ fun _ => ⟨rfl, h⟩
  | _ => exact ⟨rfl, h⟩

/-- Settles O54: a pop reads the entry below `sp` alone, and a push writes the one at `sp`. -/
theorem programCannotSeeUnusedStackEntries : Obligations.ProgramCannotSeeUnusedStackEntries := by
  rintro s t ⟨ht, h⟩
  rw [ht]
  exact endAlike_stepVia rfl rfl ⟨rfl, h⟩ fun i => endAlike_exec_unusedStack i s h

/-! ### The first fault of a run -/

/-- Settles O52: one operation keeps a recorded fault, so every sequence does. -/
theorem firstFaultIsNeverCleared : Obligations.FirstFaultIsNeverCleared := by
  intro c ops
  induction ops with
  | nil => exact fun r f h => h
  | cons op ops ih =>
    intro r f h
    have hkept : (r.apply c op).firstFault = some f := by rw [Run.apply, h]; rfl
    exact ih _ f hkept

/-! ### Faults that repeat -/

/-- The two states agree on what a step's fault depends on. -/
structure SameFaultInputs (s t : State) : Prop where
  mem : t.mem = s.mem
  V   : t.V = s.V
  I   : t.I = s.I
  pc  : t.pc = s.pc
  sp  : t.sp = s.sp

theorem endAlike_execWith_of_sameFaultInputs {c : Config} (i : Instr) {s t : State} (h : SameFaultInputs s t) :
    endAlike (fun _ _ => True) (execWith c i s) (execWith c i t) := by
  have hI : t.I.toNat = s.I.toNat := congrArg _ h.I
  have hreg (x : Reg) : t.reg x = s.reg x := by rw [State.reg, h.V, ← State.reg]
  cases i with
  | drw | ldVxMem => exact endAlike_guardRange _ hI trivial
  | ldBVx | ldMemVx => exact endAlike_guardRange _ hI (endAlike_guardFont _ hI trivial)
  | skp x | sknp x => simp only [execWith, execSkp, execSknp]; exact endAlike_withKey (hreg x) fun _ => trivial
  | call => simp only [execWith, execCall]; exact endAlike_push h.sp h.pc fun _ _ _ => trivial
  | ret => simp only [execWith, execRet]; exact endAlike_pop h.sp h.pc fun _ _ _ _ => trivial
  | ldVxK x =>
    cases hs : s.pressedKeys <;> cases ht : t.pressedKeys <;>
      simp only [execWith, execLdVxKWith, hs, ht, waitStep, endAlike]
  | _ => trivial

theorem stepWith_fault_of_sameFaultInputs {c : Config} {s t : State} {f : Fault} (h : SameFaultInputs s t)
    (hf : stepWith c s = .fault f) : stepWith c t = .fault f := by
  have halike : endAlike (fun _ _ => True) (stepWith c s) (stepWith c t) :=
    endAlike_stepVia h.mem h.pc trivial fun i => endAlike_execWith_of_sameFaultInputs i h
  rw [hf] at halike
  cases ht : stepWith c t <;> rw [ht] at halike <;> cases halike
  rfl

/-- A step that waits answers a next state, so the report is a fault exactly when the step is. -/
theorem stepReport_eq_fault_iff (c : Config) (s : State) (f : Fault) :
    stepReport c s = .fault f ↔ stepWith c s = .fault f := by
  cases hwait : s.waiting with
  | true =>
    obtain ⟨x, hnext, hnone⟩ := (waiting_eq_true_iff s).mp hwait
    rw [(stepReport_eq_waiting_iff c s).mpr hwait, stepWith_of_nextInstr hnext,
      execWith_ldVxK_of_pressedKeys_eq_nil x hnone]
    exact ⟨nofun, nofun⟩
  | false =>
    rw [stepReport, hwait]
    cases stepWith c s <;> simp

theorem hostOp_step_of_fault {c : Config} {s : State} {f : Fault} (h : stepReport c s = .fault f) :
    hostOp c .step s = (s, .stepped (.fault f)) := by
  simp only [hostOp, h, StepReport.stateAfter]

theorem sameFaultInputs_refl (s : State) : SameFaultInputs s s := ⟨rfl, rfl, rfl, rfl, rfl⟩

theorem sameFaultInputs_writeLatch (k : Nat) (down : Bool) (s : State) :
    SameFaultInputs s (replyOf s (writeLatch k down s)).1 := by
  refine replyOf_fst_of (sameFaultInputs_refl s) fun t ht => ?_
  by_cases hk : k < 16
  · cases ht.symm.trans (writeLatch_of_lt down s hk)
    exact ⟨rfl, rfl, rfl, rfl, rfl⟩
  · cases ht.symm.trans (writeLatch_of_le down s (by omega))

/-- Where the next step faults, an operation that is no `load` and no reset leaves what the fault depends on. -/
theorem sameFaultInputs_hostOp {c : Config} {op : HostOp} {s : State} {f : Fault} (hf : stepReport c s = .fault f)
    (hload : ∀ rom, op ≠ .load rom) (hreset : ∀ powerUp, op ≠ .reset powerUp) :
    SameFaultInputs s (hostOp c op s).1 := by
  cases op with
  | load rom => exact absurd rfl (hload rom)
  | reset powerUp => exact absurd rfl (hreset powerUp)
  | step => rw [hostOp_step_of_fault hf]; exact sameFaultInputs_refl s
  | press k => exact sameFaultInputs_writeLatch k true s
  | release k => exact sameFaultInputs_writeLatch k false s
  | tickTimers | clearDirty | beepPending | readFramebuffer => exact ⟨rfl, rfl, rfl, rfl, rfl⟩

/-- Settles O51: the fault depends on nothing such operations change, and the run records it at the first step. -/
theorem faultRepeatsUntilLoadOrReset : Obligations.FaultRepeatsUntilLoadOrReset := by
  intro c s f ops hf hops
  have hstep := hostOp_step_of_fault hf
  refine ⟨by rw [hstep], ?_, firstFaultIsNeverCleared c ops _ f ?_⟩
  · refine applyAll_core_of (P := fun s => stepReport c s = .fault f) (fun op hop t ht => ?_) hf
    have hsame := sameFaultInputs_hostOp ht (hops op hop).1 (hops op hop).2
    exact (stepReport_eq_fault_iff c _ f).mpr
      (stepWith_fault_of_sameFaultInputs hsame ((stepReport_eq_fault_iff c t f).mp ht))
  · show (none <|> (hostOp c .step s).2.stepFault) = some f
    rw [hstep]
    rfl

end Sys2Proof.Machine
